-- ==== Sys2Proof/Word.lean ====
section
/-! DEFINITION. The bit-vector widths of the block (00_scope.md R6, R8). Every value is unsigned and bit 0 is its
least-significant bit. -/

namespace Sys2Proof

/-- A 16-bit command word `CW` (30_encoding.md R53). -/
abbrev CommandWord := BitVec 16

/-- An 8-bit response word `RW` (30_encoding.md R54). -/
abbrev ResponseWord := BitVec 8

/-- The 8-bit DATA field of a command word (30_encoding.md R53). -/
abbrev DataField := BitVec 8

/-- A 5-bit unit, or a 5-bit bank value (30_encoding.md R50, R52). -/
abbrev CodeUnit := BitVec 5

/-- A position register or an indicator, 7 bits (10_state.md R24, R29). -/
abbrev Position := BitVec 7

/-- A length register, 7 bits (10_state.md R26). -/
abbrev WheelLength := BitVec 7

/-- A pattern register, 73 bits: bit `j` is the pattern bit at position `j` (10_state.md R27). -/
abbrev Pattern := BitVec 73

/-- A wheel number, 0 to 9 (10_state.md R22). -/
abbrev WheelNo := Fin 10

end Sys2Proof
end

