-- ==== Sys2Proof/Syntax.lean ====
section
/-! DEFINITION. The commands of the block, one constructor per row of opcode_table.json (30_encoding.md R58). -/

namespace Sys2Proof

/-- A legal command. The DATA field stays 8 bits wide: a unit above 31 is still an ENC or a DEC, and its execution
raises DOMAIN_ERROR (30_encoding.md R56, R57). -/
inductive Instr where
  /-- INIT: load the key material on port K (40_rotor_position_register.md R76). -/
  | init
  /-- ENC: encrypt one unit (42_permutation_network_xor_stage.md R109). -/
  | enc (data : DataField)
  /-- DEC: decrypt one unit (43_inverse_permutation_network.md R122). -/
  | dec (data : DataField)
deriving DecidableEq, Repr

end Sys2Proof
end

