-- ==== Sys2Proof/Decode.lean ====
section
/-! DEFINITION. The decoder, total on 16-bit words (30_encoding.md R53, R56), and the encoder (R58). -/

namespace Sys2Proof

/-- Why a word is illegal (30_encoding.md R59; 60_exceptions.md R141). -/
inductive IllegalCause where
  /-- `CW[13:8]` is not 0. -/
  | reservedBits
  /-- OP = 11. -/
  | reservedOp
  /-- OP = 00 with DATA not 0. -/
  | initData
deriving DecidableEq, Repr

/-- What a word decodes to: one of INIT, ENC, DEC, or ILLEGAL (30_encoding.md R56). -/
inductive Decoded where
  | instr (i : Instr)
  | illegal (why : IllegalCause)
deriving DecidableEq, Repr

/-- The field OP = `CW[15:14]` (30_encoding.md R53). -/
def opField (cw : CommandWord) : BitVec 2 := cw.extractLsb' 14 2

/-- The field RSV = `CW[13:8]` (30_encoding.md R53). -/
def rsvField (cw : CommandWord) : BitVec 6 := cw.extractLsb' 8 6

/-- The field DATA = `CW[7:0]` (30_encoding.md R53). -/
def dataField (cw : CommandWord) : DataField := cw.extractLsb' 0 8

/-- The decoder, with the checks in the order of 30_encoding.md R56. -/
def decode (cw : CommandWord) : Decoded :=
  if rsvField cw ≠ 0 then .illegal .reservedBits
  else match (opField cw).toNat with
    | 0 => if dataField cw = 0 then .instr .init else .illegal .initData
    | 1 => .instr (.enc (dataField cw))
    | 2 => .instr (.dec (dataField cw))
    | _ => .illegal .reservedOp

/-- The legal command in a decoded word, if it holds one. -/
def Decoded.instr? : Decoded → Option Instr
  | .instr i => some i
  | .illegal _ => none

/-- The encoder: the word of a command (30_encoding.md R58). -/
def encode : Instr → CommandWord
  | .init => 0x0000
  | .enc data => 0x4000 ||| data.setWidth 16
  | .dec data => 0x8000 ||| data.setWidth 16

/-- The command the decoder reads from the `nbits` low bits of `w`, the bits above them 0. A command is one whole 16-bit
word with no byte order (20_memory.md R42; 30_encoding.md R60). -/
def decodeTableWord (nbits w : Nat) : Option Instr :=
  (decode (BitVec.ofNat 16 (w % 2 ^ nbits))).instr?

end Sys2Proof
end

