-- ==== Sys2Proof/Config.lean ====
section
/-! DEFINITION. What is fixed for the block (00_scope.md R6), and the free values: constants without a body, so that
nothing can be proved of the value the spec leaves open. -/

namespace Sys2Proof

/-- `LSET`, the ten candidate wheel lengths, in the order the spec lists them (00_scope.md R6; 93_implementation_defined.md U10). -/
def Config.lset : List WheelLength := [73, 71, 69, 67, 65, 64, 61, 59, 53, 47]

/-- `LMAX`, the longest wheel, which is also the width `KPW` of a pattern register (00_scope.md R6). -/
def Config.lmax : Nat := 73

/-- FREE VALUE. The ten positions where the spec calls them unspecified: after an RST input (70_reset_and_hazards.md R160)
and after an INIT during which K changed (R165). The argument is `State.freeIndex`. Logs 5 and 6; safe. -/
opaque Config.unspecifiedPositions : Nat → Vector Position 10

/-- FREE VALUE. The ten lengths where the spec calls them unspecified (R160, R165). Logs 5 and 6; safe. -/
opaque Config.unspecifiedLengths : Nat → Vector WheelLength 10

/-- FREE VALUE. The ten patterns where the spec calls them unspecified (R160, R165). Logs 5 and 6; safe. -/
opaque Config.unspecifiedPatterns : Nat → Vector Pattern 10

/-- FREE VALUE. Whether an INIT during which K changed is answered OK or CONFIG_ERROR; the spec does not say (R165). Log 6; safe. -/
opaque Config.unstableKeyAccepted : Nat → Bool

/-- FREE VALUE. The bit a wheel gives at a position at or above its length, whose bits the block never reads
(10_state.md R27), or of 73 or more, which its pattern register does not have (outside the range of 00_scope.md R7). Log 7;
safe. -/
opaque Config.strayPatternBit : Nat → WheelNo → Bool

/-- FREE VALUE. The position a wheel of length 0 advances to: a remainder modulo 0
(40_rotor_position_register.md R70, outside the range of 00_scope.md R7). Log 7; safe. -/
opaque Config.zeroLengthAdvance : Nat → WheelNo → Position

end Sys2Proof
end

