-- ==== Sys2Proof/Machine/State.lean ====
section
/-! DEFINITION. The state of the block (10_state.md), what the host drives and receives, and the reset state. -/

namespace Sys2Proof.Machine

/-- The key material on port K (10_state.md R29): ten of each field, so a wrong count cannot be presented. -/
structure KeyMaterial where
  /-- `L[w]`: the length of wheel `w`. -/
  lengths : Vector WheelLength 10
  /-- `P[w]`: the pattern of wheel `w`; bit `j` is the pattern bit at position `j`. -/
  patterns : Vector Pattern 10
  /-- `I[w]`: the indicator, the initial position of wheel `w`. -/
  indicators : Vector Position 10
deriving DecidableEq, Repr

/-- The read-only observation outputs (10_state.md R31). -/
inductive ObsPort where
  /-- `OBS_POS[w]`. -/
  | pos (w : WheelNo)
  /-- `OBS_X`. -/
  | x
  /-- `OBS_S`. -/
  | s
  /-- `OBS_INIT_DONE`. -/
  | initDone
deriving DecidableEq, Repr

/-- What the host can do to the block; one step takes one of these (log 1). -/
inductive HostInput where
  /-- Issue a command word; K is held stable until the response (20_memory.md R45). -/
  | command (cw : CommandWord)
  /-- Issue a command word, and change K to `k` before the response (70_reset_and_hazards.md R165). -/
  | commandKeyChanging (cw : CommandWord) (k : KeyMaterial)
  /-- Issue a command word, and assert RST before the response (70_reset_and_hazards.md R160). -/
  | commandAborted (cw : CommandWord)
  /-- Assert RST with no command in progress (70_reset_and_hazards.md R160). -/
  | reset
  /-- Drive `k` on K while no command is in progress (10_state.md R29). -/
  | driveKey (k : KeyMaterial)
  /-- Read an observation output (10_state.md R31). -/
  | observe (port : ObsPort)
deriving DecidableEq, Repr

/-- What the host receives (30_encoding.md R54; 10_state.md R31). -/
inductive HostOutput where
  /-- The one response word of a command. -/
  | response (rw : ResponseWord)
  /-- The value read on `OBS_POS[w]`. -/
  | obsPos (w : WheelNo) (value : Position)
  /-- The value read on `OBS_X`. -/
  | obsX (value : CodeUnit)
  /-- The value read on `OBS_S`. -/
  | obsS (value : CodeUnit)
  /-- The value read on `OBS_INIT_DONE`. -/
  | obsInitDone (value : Bool)
deriving DecidableEq, Repr

/-- The machine: the four architectural elements of 10_state.md R20, then what stands on the block's pins, then the
model's own counter. -/
structure State where
  /-- `POS[0..9]`, the rotor_position_register (R24). -/
  pos : Vector Position 10
  /-- `KL[0..9]`, the length registers (R26). -/
  kl : Vector WheelLength 10
  /-- `KP[0..9]`, the pattern registers (R27). -/
  kp : Vector Pattern 10
  /-- `INIT_DONE` (R28). -/
  initDone : Bool
  /-- The value the host drives on port K (R29). -/
  keyPort : KeyMaterial
  /-- Is K held stable during the command in progress (70_reset_and_hazards.md R165)? -/
  keyStable : Bool
  /-- What the host does next, oldest first (20_memory.md R46; log 1). -/
  inputs : List HostInput
  /-- What the host has received, oldest first (log 2). -/
  outputs : List HostOutput
  /-- The MODEL's own field: how many inputs have been taken; the free values of Config are applied to it (log 8). -/
  freeIndex : Nat
deriving DecidableEq, Repr

/-- Why the machine stops. -/
inductive Fault where
  /-- Raised by a step that reads OBS_POS, OBS_X or OBS_S while INIT_DONE = 0: the output has no value, which is "a fault
  in the model" (10_state.md R31; 93_implementation_defined.md U5). Safe: the hardware goes on with a value nobody may
  use. -/
  | obsNoValue (port : ObsPort)
deriving DecidableEq, Repr

/-- Why the machine refuses. -/
inductive Refusal where
  /-- For an arm of `exec` without a meaning. No arm raises it: every command has its meaning. Safe. -/
  | notModelled (mnemonic : String)
deriving DecidableEq, Repr

/-- The machine right after RST (10_state.md R32; 70_reset_and_hazards.md R160, R161). INIT_DONE is 0 by the spec; POS,
KL, KP are unspecified there and named 0 here (DESIGN CHOICE, unsafe, log 3); K is an input and named 0 here (DESIGN
CHOICE, unsafe, log 4); `freeIndex` is the model's (DESIGN CHOICE, log 8). -/
def State.reset : State where
  pos := Vector.replicate 10 0
  kl := Vector.replicate 10 0
  kp := Vector.replicate 10 0
  initDone := false
  keyPort :=
    { lengths := Vector.replicate 10 0, patterns := Vector.replicate 10 0, indicators := Vector.replicate 10 0 }
  keyStable := true
  inputs := []
  outputs := []
  freeIndex := 0

end Sys2Proof.Machine
end

