-- ==== Sys2Proof/Machine/Flags.lean ====
section
/-! DEFINITION. The STATUS codes and the response word (30_encoding.md R54, R55). The block has no condition flags
(10_state.md R30); its one flag is INIT_DONE, a field of State. -/

namespace Sys2Proof.Machine

/-- The error codes a command can raise (60_exceptions.md R141 to R144). -/
inductive ErrorCode where
  /-- ENC or DEC with DATA > 31 (R143). -/
  | domainError
  /-- INIT with invalid key material (R144). -/
  | configError
  /-- A word the decoder calls ILLEGAL (R141). -/
  | illegalCommand
  /-- ENC or DEC while INIT_DONE = 0 (R142). -/
  | notInitialised
deriving DecidableEq, Repr

/-- The status of a response: OK or one error (30_encoding.md R55; 60_exceptions.md R140). -/
inductive Status where
  | ok
  | error (e : ErrorCode)
deriving DecidableEq, Repr

/-- The 3-bit STATUS code (30_encoding.md R55). Codes 101, 110 and 111 are never produced. -/
def Status.code : Status → BitVec 3
  | .ok => 0b000
  | .error .domainError => 0b001
  | .error .configError => 0b010
  | .error .illegalCommand => 0b011
  | .error .notInitialised => 0b100

/-- The response word: STATUS in bits 7 to 5, RDATA in bits 4 to 0 (30_encoding.md R54). -/
def responseWord (status : Status) (rdata : CodeUnit) : ResponseWord := status.code ++ rdata

/-- The STATUS field of a response word (30_encoding.md R54). -/
def statusField (rw : ResponseWord) : BitVec 3 := rw.extractLsb' 5 3

/-- The RDATA field of a response word (30_encoding.md R54). -/
def rdataField (rw : ResponseWord) : CodeUnit := rw.extractLsb' 0 5

/-- The status a response word reports; none for the codes that are never produced (30_encoding.md R55;
93_implementation_defined.md U13). -/
def readStatus (rw : ResponseWord) : Option Status :=
  match (statusField rw).toNat with
  | 0 => some .ok
  | 1 => some (.error .domainError)
  | 2 => some (.error .configError)
  | 3 => some (.error .illegalCommand)
  | 4 => some (.error .notInitialised)
  | _ => none

end Sys2Proof.Machine
end

