-- ==== Sys2Proof/Machine/Operands.lean ====
section
/-! DEFINITION. The operand of ENC and DEC, and how a 5-bit value is put together from its bits. -/

namespace Sys2Proof.Machine

/-- The unit operand `u = DATA[4:0]`, taken only when `DATA[7:5] = 000`; the bits are never masked (30_encoding.md R57). -/
def unitOperand (data : DataField) : Option CodeUnit :=
  if data.extractLsb' 5 3 = 0 then some (data.extractLsb' 0 5) else none

/-- The DATA field that carries a unit: the unit zero-extended to 8 bits (30_encoding.md R53). -/
def unitData (u : CodeUnit) : DataField := u.setWidth 8

/-- The 5-bit value whose bit `i` is `b i` (00_scope.md R8). -/
def assembleBits (b : Fin 5 → Bool) : CodeUnit :=
  BitVec.ofBool (b 4) ++ BitVec.ofBool (b 3) ++ BitVec.ofBool (b 2) ++ BitVec.ofBool (b 1) ++ BitVec.ofBool (b 0)

/-- Positional bit `p_j = v[4-j]` of a 5-bit value: p0 is the most significant (00_scope.md R9; 30_encoding.md R51). -/
def positionalBit (v : CodeUnit) (j : Fin 5) : Bool := v.getLsbD (4 - j.val)

/-- The 5-bit value whose positional bits are p0 to p4 (00_scope.md R9). -/
def fromPositional (p0 p1 p2 p3 p4 : Bool) : CodeUnit :=
  BitVec.ofBool p0 ++ BitVec.ofBool p1 ++ BitVec.ofBool p2 ++ BitVec.ofBool p3 ++ BitVec.ofBool p4

end Sys2Proof.Machine
end

