-- ==== Sys2Proof/Machine/Ops.lean ====
section
/-! DEFINITION. The named operations over the state: responding, raising an error, the wheels and the two banks, the
combiner, the advance, loading the key store, RST. -/

namespace Sys2Proof.Machine

/-! ## Response and error -/

/-- `respond(STATUS, RDATA)`: the one response a command returns (00_scope.md R11; 30_encoding.md R54). -/
def respond (status : Status) (rdata : CodeUnit) (s : State) : State :=
  { s with outputs := s.outputs ++ [.response (responseWord status rdata)] }

/-- `raise <Error>`, the block's only exception: the response of that error with RDATA 00000, and no change of state
(00_scope.md R11; 30_encoding.md R54; 60_exceptions.md R140, R145). Nothing is saved and nothing returns from it. -/
def raise (e : ErrorCode) (s : State) : State := respond (.error e) 0 s

/-! ## Wheels and banks -/

/-- The two banks (10_state.md R22). -/
inductive Bank where
  /-- The X-bank, wheels 0 to 4. -/
  | x
  /-- The S-bank, wheels 5 to 9. -/
  | s
deriving DecidableEq, Repr

/-- The first wheel of a bank: 0 or 5 (10_state.md R22). -/
def Bank.base : Bank → Nat
  | .x => 0
  | .s => 5

/-- Member `i` of a bank is wheel `base + i` (10_state.md R22). -/
def Bank.wheel (b : Bank) (i : Fin 5) : WheelNo :=
  Fin.ofNat 10 (b.base + i.val)

/-- The members of a bank in order (40_rotor_position_register.md R71). -/
def bankMembers : List (Fin 5) := [0, 1, 2, 3, 4]

/-! ## The wheel_bank_combiner -/

/-- The current bit of wheel `w`, `KP[w][POS[w]]` (41_wheel_bank_combiner.md R90). Only the bits below the length are ever
read (10_state.md R27): at a position at or above the length, or of 73 or more, the bit is a free value (log 7). -/
def currentBit (w : WheelNo) (s : State) : Bool :=
  if s.pos.get w < s.kl.get w ∧ (s.pos.get w).toNat < Config.lmax then
    (s.kp.get w).getLsbD (s.pos.get w).toNat
  else Config.strayPatternBit s.freeIndex w

/-- `BankValue(base)`: bit `i` is the current bit of member `i` (41_wheel_bank_combiner.md R91). -/
def bankValue (b : Bank) (s : State) : CodeUnit :=
  assembleBits fun i => currentBit (b.wheel i) s

/-! ## The advance -/

/-- The position after one advance, `(POS[w] + 1) mod KL[w]` (40_rotor_position_register.md R70). A remainder modulo 0 is
a free value (log 7). -/
def advancedPosition (w : WheelNo) (s : State) : Position :=
  if s.kl.get w = 0 then Config.zeroLengthAdvance s.freeIndex w
  else BitVec.ofNat 7 (((s.pos.get w).toNat + 1) % (s.kl.get w).toNat)

/-- `ADV_W(w)` (40_rotor_position_register.md R70). -/
def advWheel (w : WheelNo) (s : State) : State :=
  { s with pos := s.pos.set w.val (advancedPosition w s) }

/-- `ADV_BANK(base)`: the five wheels of a bank, in lock-step (40_rotor_position_register.md R71). -/
def advBank (b : Bank) (s : State) : State :=
  bankMembers.foldl (fun t i => advWheel (b.wheel i) t) s

/-- `ADV_ALL`: the X-bank, then the S-bank (40_rotor_position_register.md R72). -/
def advAll (s : State) : State := advBank .s (advBank .x s)

/-! ## The key store -/

/-- The loads of a successful INIT (40_rotor_position_register.md R76): all 73 bits of every pattern are copied. -/
def loadKey (k : KeyMaterial) (s : State) : State :=
  { s with kl := k.lengths, kp := k.patterns, pos := k.indicators, initDone := true }

/-- What an INIT that is answered OK loads when K changed before its response: an unspecified key store
(70_reset_and_hazards.md R165; log 6). -/
def loadUnspecifiedKey (s : State) : State :=
  loadKey
    { lengths := Config.unspecifiedLengths s.freeIndex
      patterns := Config.unspecifiedPatterns s.freeIndex
      indicators := Config.unspecifiedPositions s.freeIndex } s

/-! ## RST -/

/-- What RST does to the block: INIT_DONE is 0, and POS, KL, KP are unspecified (70_reset_and_hazards.md R160; log 5).
There is no response. -/
def assertReset (s : State) : State :=
  { s with
    initDone := false
    pos := Config.unspecifiedPositions s.freeIndex
    kl := Config.unspecifiedLengths s.freeIndex
    kp := Config.unspecifiedPatterns s.freeIndex }

/-! ## A unit command -/

/-- The common shape of ENC and DEC (42_permutation_network_xor_stage.md R109; 43_inverse_permutation_network.md R122):
the two checks in the order of 60_exceptions.md R146, both bank values read before the advance
(41_wheel_bank_combiner.md R92; 70_reset_and_hazards.md R163), the advance, the response. `transform u x s` is the
datapath. -/
def processUnit (transform : CodeUnit → CodeUnit → CodeUnit → CodeUnit) (data : DataField) (s : State) : State :=
  if s.initDone = false then raise .notInitialised s
  else
    match unitOperand data with
    | none => raise .domainError s
    | some u => respond .ok (transform u (bankValue .x s) (bankValue .s s)) (advAll s)

end Sys2Proof.Machine
end

