-- ==== Sys2Proof/Machine/PermutationNetwork.lean ====
section
/-! DEFINITION. The permutation_network_xor_stage: the XOR, the five gated swaps, the forward network, ENC
(42_permutation_network_xor_stage.md). -/

namespace Sys2Proof.Machine

/-- `swap(v, a, b)`: bits `a` and `b` exchanged, every other bit unchanged (00_scope.md R11). -/
def swapBits (v : CodeUnit) (a b : Fin 5) : CodeUnit :=
  assembleBits fun i =>
    if i = a then v.getLsbD b.val else if i = b then v.getLsbD a.val else v.getLsbD i.val

/-- The XOR stage, `r = u XOR x` (42_permutation_network_xor_stage.md R100). -/
def xorStage (u x : CodeUnit) : CodeUnit := u ^^^ x

/-- SW4: p0 and p4, gated by `s[4]` (R101). -/
def sw4 (v s : CodeUnit) : CodeUnit := if s.getLsbD 4 then swapBits v 4 0 else v

/-- SW3: p3 and p4, gated by `s[3]` (R102). -/
def sw3 (v s : CodeUnit) : CodeUnit := if s.getLsbD 3 then swapBits v 1 0 else v

/-- SW2: p2 and p3, gated by `s[2]` (R103). -/
def sw2 (v s : CodeUnit) : CodeUnit := if s.getLsbD 2 then swapBits v 2 1 else v

/-- SW1: p1 and p2, gated by `s[1]` (R104). -/
def sw1 (v s : CodeUnit) : CodeUnit := if s.getLsbD 1 then swapBits v 3 2 else v

/-- SW0: p0 and p1, gated by `s[0]` (R105). -/
def sw0 (v s : CodeUnit) : CodeUnit := if s.getLsbD 0 then swapBits v 4 3 else v

/-- Stage `SWk` (R101 to R105). -/
def swapStage (k : Fin 5) (v s : CodeUnit) : CodeUnit :=
  match k with
  | 0 => sw0 v s
  | 1 => sw1 v s
  | 2 => sw2 v s
  | 3 => sw3 v s
  | 4 => sw4 v s

/-- `FWD(v, s)`: SW4, SW3, SW2, SW1, SW0 in that order (R106). -/
def fwd (v s : CodeUnit) : CodeUnit :=
  [(4 : Fin 5), 3, 2, 1, 0].foldl (fun t k => swapStage k t s) v

/-- The datapath of ENC: the XOR, then the forward network (R109). -/
def encryptUnit (u x s : CodeUnit) : CodeUnit := fwd (xorStage u x) s

/-- ENC (R109). -/
def execEnc (data : DataField) (s : State) : Host.Outcome State Fault Refusal :=
  .next (processUnit encryptUnit data s)

end Sys2Proof.Machine
end

