-- ==== Sys2Proof/Machine/InversePermutation.lean ====
section
/-! DEFINITION. The inverse_permutation_network and DEC (43_inverse_permutation_network.md). -/

namespace Sys2Proof.Machine

/-- `INV(v, s)`: the same stages with the same gates, in the order SW0 to SW4 (R120, R121; 90_conflicts.md C1). -/
def inv (v s : CodeUnit) : CodeUnit :=
  [(0 : Fin 5), 1, 2, 3, 4].foldl (fun t k => swapStage k t s) v

/-- The datapath of DEC: the inverse network, then the XOR (R122). -/
def decryptUnit (c x s : CodeUnit) : CodeUnit := xorStage (inv c s) x

/-- DEC (R122). -/
def execDec (data : DataField) (s : State) : Host.Outcome State Fault Refusal :=
  .next (processUnit decryptUnit data s)

end Sys2Proof.Machine
end

