-- ==== Sys2Proof/Machine/RotorPosition.lean ====
section
/-! DEFINITION. INIT: the validity of key material and the load (40_rotor_position_register.md R76 to R79). -/

namespace Sys2Proof.Machine

/-- Condition (a) of `ValidK`: the ten lengths, as a multiset, are `LSET` (40_rotor_position_register.md R77). -/
def lengthsValid (k : KeyMaterial) : Bool := k.lengths.toList.isPerm Config.lset

/-- Condition (b) of `ValidK`: every indicator is below its wheel's length (40_rotor_position_register.md R77). -/
def indicatorsValid (k : KeyMaterial) : Bool :=
  (List.finRange 10).all fun w => decide ((k.indicators.get w).toNat < (k.lengths.get w).toNat)

/-- `ValidK(K)` (40_rotor_position_register.md R77). Patterns are not checked. -/
def validK (k : KeyMaterial) : Bool := lengthsValid k && indicatorsValid k

/-- INIT (40_rotor_position_register.md R76, R78): with K held stable, it loads K and responds OK, or raises CONFIG_ERROR.
With K changing before the response (70_reset_and_hazards.md R165), which of the two happens and what is loaded are free
values (log 6). -/
def execInit (s : State) : Host.Outcome State Fault Refusal :=
  if s.keyStable then
    if validK s.keyPort then .next (respond .ok 0 (loadKey s.keyPort s)) else .next (raise .configError s)
  else if Config.unstableKeyAccepted s.freeIndex then .next (respond .ok 0 (loadUnspecifiedKey s))
  else .next (raise .configError s)

end Sys2Proof.Machine
end

