-- ==== Sys2Proof/Machine/Observation.lean ====
section
/-! DEFINITION. The observation outputs (10_state.md R31). -/

namespace Sys2Proof.Machine

/-- What an observation output carries: no value for OBS_POS, OBS_X and OBS_S while INIT_DONE = 0 (10_state.md R31;
41_wheel_bank_combiner.md R94). OBS_INIT_DONE always has its value (log 9). -/
def observed (port : ObsPort) (s : State) : Option HostOutput :=
  match port with
  | .pos w => if s.initDone then some (.obsPos w (s.pos.get w)) else none
  | .x => if s.initDone then some (.obsX (bankValue .x s)) else none
  | .s => if s.initDone then some (.obsS (bankValue .s s)) else none
  | .initDone => some (.obsInitDone s.initDone)

/-- The host reads an observation output: no side effect on the block (10_state.md R31; 20_memory.md R44); a read of an
output without a value is a fault of the model (R31). -/
def readObservation (port : ObsPort) (s : State) : Host.Outcome State Fault Refusal :=
  match observed port s with
  | some v => .next { s with outputs := s.outputs ++ [v] }
  | none => .fault (.obsNoValue port)

end Sys2Proof.Machine
end

