-- ==== Sys2Proof/Machine/CommandPort.lean ====
section
/-! DEFINITION. The command port: what the block does with one input of the host. -/

namespace Sys2Proof.Machine

/-- One command word: decode it and run it; an ILLEGAL word raises ILLEGAL_COMMAND whatever INIT_DONE is
(30_encoding.md R56; 60_exceptions.md R141, R146). -/
def issueCommand (cw : CommandWord) (s : State) : Host.Outcome State Fault Refusal :=
  match decode cw with
  | .instr i => exec i s
  | .illegal _ => .next (raise .illegalCommand s)

/-- Drive a new value on K (10_state.md R29); nothing in the block changes (70_reset_and_hazards.md R165). -/
def driveKeyPort (k : KeyMaterial) (s : State) : State := { s with keyPort := k, keyStable := true }

/-- Say whether the host holds K stable during the command it issues (20_memory.md R45; 70_reset_and_hazards.md R165). -/
def setKeyStable (stable : Bool) (s : State) : State := { s with keyStable := stable }

/-- A command word during which K changes to `k`: only INIT reads K, so only INIT is affected
(20_memory.md R45; 70_reset_and_hazards.md R165). -/
def issueWhileKeyChanges (cw : CommandWord) (k : KeyMaterial) (s : State) : Host.Outcome State Fault Refusal :=
  match issueCommand cw (setKeyStable false s) with
  | .next t => .next (driveKeyPort k t)
  | .fault f => .fault f
  | .refused r => .refused r

/-- One input of the host, taken whole (70_reset_and_hazards.md R164, R168; log 1). A command interrupted by RST has no
effect and no response (R160). -/
def acceptInput (input : HostInput) (s : State) : Host.Outcome State Fault Refusal :=
  match input with
  | .command cw => issueCommand cw (setKeyStable true s)
  | .commandKeyChanging cw k => issueWhileKeyChanges cw k s
  | .commandAborted _ => .next (assertReset s)
  | .reset => .next (assertReset s)
  | .driveKey k => .next (driveKeyPort k s)
  | .observe port => readObservation port s

/-- Take the oldest input off the port; the free values move on (log 8). -/
def takeInput (rest : List HostInput) (s : State) : State :=
  { s with inputs := rest, freeIndex := s.freeIndex + 1 }

/-- One step of the block. With no input pending it waits and holds its state (20_memory.md R41; 60_exceptions.md R154);
else it takes the oldest one (20_memory.md R46). -/
def serve (s : State) : Host.Outcome State Fault Refusal :=
  match s.inputs with
  | [] => .next s
  | input :: rest => acceptInput input (takeInput rest s)

/-- The host issues the word `cw` next, before whatever else it was going to do. -/
def placeCommand (cw : CommandWord) (s : State) : State := { s with inputs := .command cw :: s.inputs }

end Sys2Proof.Machine
end

