-- ==== Sys2Proof/Machine/Step.lean ====
section
/-! DEFINITION. The step, and where the host places a command. -/

namespace Sys2Proof.Machine

/-- One step: one whole input of the host (70_reset_and_hazards.md R168; D20). -/
def step (s : State) : Host.Outcome State Fault Refusal := serve s

/-- `s` with the command word in the `nbits` low bits of `w` as the next input on the command port (30_encoding.md R53;
20_memory.md R42; log 1). -/
def State.withFetchWord (s : State) (nbits w : Nat) : State :=
  placeCommand (BitVec.ofNat 16 (w % 2 ^ nbits)) s

end Sys2Proof.Machine
end

