-- ==== Sys2Proof/Machine/Assembler.lean ====
section
/-! DEFINITION. The assembler of the spec: command lines, pseudo-instructions, their text, and the text of a response
(30_encoding.md R61). Lexical details the rule does not give are log 11. -/

namespace Sys2Proof.Machine

/-- One line of the assembler's text (30_encoding.md R61). -/
inductive AsmLine where
  | init
  | enc (u : Nat)
  | dec (u : Nat)
  /-- `.word h`: a raw word. -/
  | word (h : Nat)
  /-- `ENCS u1, ..., un`. -/
  | encs (us : List Nat)
  /-- `DECS c1, ..., cn`. -/
  | decs (cs : List Nat)
  /-- `RESTART`: another INIT. -/
  | restart
deriving DecidableEq, Repr

/-- `ENC u` is the word 0x4000 + u; the assembler refuses u > 31 (30_encoding.md R61). -/
def assembleEnc (u : Nat) : Option CommandWord :=
  if u ≤ 31 then some (BitVec.ofNat 16 (0x4000 + u)) else none

/-- `DEC u` is the word 0x8000 + u; the assembler refuses u > 31 (30_encoding.md R61). -/
def assembleDec (u : Nat) : Option CommandWord :=
  if u ≤ 31 then some (BitVec.ofNat 16 (0x8000 + u)) else none

/-- Every member assembled, in order; none if one of them is refused. -/
def assembleEach (f : Nat → Option CommandWord) : List Nat → Option (List CommandWord)
  | [] => some []
  | u :: us =>
    match f u, assembleEach f us with
    | some cw, some cws => some (cw :: cws)
    | _, _ => none

/-- The words of one line; the pseudo-instructions expand left to right (30_encoding.md R61;
42_permutation_network_xor_stage.md R111). R61 writes n ≥ 1 for `ENCS`; the same for `DECS` is DEDUCED (log 11, safe). -/
def assembleLine : AsmLine → Option (List CommandWord)
  | .init => some [0x0000]
  | .restart => some [0x0000]
  | .enc u => (assembleEnc u).map ([·])
  | .dec u => (assembleDec u).map ([·])
  | .word h => if h < 65536 then some [BitVec.ofNat 16 h] else none
  | .encs us => if us.isEmpty then none else assembleEach assembleEnc us
  | .decs cs => if cs.isEmpty then none else assembleEach assembleDec cs

/-! ## Text -/

/-- The value of a digit character, up to base 16. -/
def digitValue (c : Char) : Option Nat :=
  let n := c.toNat
  if 48 ≤ n ∧ n ≤ 57 then some (n - 48)
  else if 97 ≤ n ∧ n ≤ 102 then some (n - 87)
  else if 65 ≤ n ∧ n ≤ 70 then some (n - 55)
  else none

/-- The number a run of digits stands for, after `acc`. -/
def parseDigits (base : Nat) (acc : Nat) : List Char → Option Nat
  | [] => some acc
  | c :: cs =>
    match digitValue c with
    | some d => if d < base then parseDigits base (acc * base + d) cs else none
    | none => none

/-- A number: decimal, or with 0x or 0b before it (30_encoding.md R61). -/
def parseNumber : List Char → Option Nat
  | [] => none
  | '0' :: 'x' :: c :: cs => parseDigits 16 0 (c :: cs)
  | '0' :: 'b' :: c :: cs => parseDigits 2 0 (c :: cs)
  | c :: cs => parseDigits 10 0 (c :: cs)

/-- A space, a tab or a carriage return. -/
def isBlankChar (c : Char) : Bool := c = ' ' || c = '\t' || c = '\r'

/-- The text without the blanks at either end. -/
def trimBlanks (cs : List Char) : List Char :=
  ((cs.dropWhile isBlankChar).reverse.dropWhile isBlankChar).reverse

/-- The text cut at every comma. -/
def splitCommas : List Char → List (List Char)
  | [] => [[]]
  | c :: cs =>
    if c = ',' then [] :: splitCommas cs
    else
      match splitCommas cs with
      | [] => [[c]]
      | first :: rest => (c :: first) :: rest

/-- The numbers of a comma-separated operand list. -/
def parseOperands (cs : List Char) : Option (List Nat) :=
  (splitCommas cs).mapM fun piece => parseNumber (trimBlanks piece)

/-- A mnemonic and its operands as a line (30_encoding.md R61). -/
def parseCommand (mnemonic : List Char) (rest : List Char) : Option AsmLine :=
  if mnemonic = ['I', 'N', 'I', 'T'] then if rest.isEmpty then some .init else none
  else if mnemonic = ['R', 'E', 'S', 'T', 'A', 'R', 'T'] then if rest.isEmpty then some .restart else none
  else
    match parseOperands rest with
    | none => none
    | some operands =>
      if mnemonic = ['E', 'N', 'C', 'S'] then some (.encs operands)
      else if mnemonic = ['D', 'E', 'C', 'S'] then some (.decs operands)
      else
        match operands with
        | [n] =>
          if mnemonic = ['E', 'N', 'C'] then some (.enc n)
          else if mnemonic = ['D', 'E', 'C'] then some (.dec n)
          else if mnemonic = ['.', 'w', 'o', 'r', 'd'] then some (.word n)
          else none
        | _ => none

/-- What one line of text holds. -/
inductive ParsedLine where
  /-- Nothing but blanks and a comment. -/
  | blank
  | line (l : AsmLine)
  | refused
deriving DecidableEq, Repr

/-- One line of text: `;` starts a comment, one command per line (30_encoding.md R61). -/
def parseLine (cs : List Char) : ParsedLine :=
  let body := trimBlanks (cs.takeWhile (· != ';'))
  if body.isEmpty then .blank
  else
    let mnemonic := body.takeWhile fun c => !isBlankChar c
    let rest := trimBlanks (body.dropWhile fun c => !isBlankChar c)
    match parseCommand mnemonic rest with
    | some l => .line l
    | none => .refused

/-- The words of a text, line by line; none if a line is refused (30_encoding.md R61). -/
def assembleText : List (List Char) → Option (List CommandWord)
  | [] => some []
  | l :: ls =>
    match parseLine l, assembleText ls with
    | .blank, some cws => some cws
    | .line a, some cws => (assembleLine a).map (· ++ cws)
    | _, _ => none

/-- The text of an error response (30_encoding.md R61). -/
def errorText : ErrorCode → String
  | .domainError => "DOMAIN_ERROR"
  | .configError => "CONFIG_ERROR"
  | .illegalCommand => "ILLEGAL_COMMAND"
  | .notInitialised => "NOT_INITIALISED"

/-- The text of the response to a command: `OK` for INIT, `OK d` for ENC and DEC, an error's name; none for a STATUS code
that is never produced (30_encoding.md R55, R61). -/
def responseText (cmd : Decoded) (rw : ResponseWord) : Option String :=
  match readStatus rw with
  | none => none
  | some (.error e) => some (errorText e)
  | some .ok =>
    match cmd with
    | .instr (.enc _) | .instr (.dec _) => some ("OK " ++ toString (rdataField rw).toNat)
    | _ => some "OK"

end Sys2Proof.Machine
end

