-- ==== Sys2Proof/Machine/Ensemble.lean ====
section
/-! DEFINITION. Several blocks side by side: each has its own state and they share nothing (60_exceptions.md R152). -/

namespace Sys2Proof.Machine

/-- Block number `k` of the list takes one step; no other block is touched (60_exceptions.md R152; log 14). A number that
names no block does nothing. -/
def stepBlock (k : Nat) (blocks : List State) : Host.Outcome (List State) Fault Refusal :=
  match blocks[k]? with
  | none => .next blocks
  | some s =>
    match step s with
    | .next t => .next (blocks.set k t)
    | .fault f => .fault f
    | .refused r => .refused r

end Sys2Proof.Machine
end

