-- ==== Sys2Proof/Machine/Tables.lean ====
section
/-! DEFINITION. The two destination tables the spec prints, copied from it: row `s` lists the output bit position of input
bits 0 to 4. No meaning uses them; statements and tests hold the networks against them. -/

namespace Sys2Proof.Machine

/-- The forward destination table (42_permutation_network_xor_stage.md R108). -/
def forwardTable : List (List Nat) :=
  [[0, 1, 2, 3, 4], [0, 1, 2, 4, 3], [0, 1, 3, 2, 4], [0, 1, 4, 2, 3]] ++
  [[0, 2, 1, 3, 4], [0, 2, 1, 4, 3], [0, 3, 1, 2, 4], [0, 4, 1, 2, 3]] ++
  [[1, 0, 2, 3, 4], [1, 0, 2, 4, 3], [1, 0, 3, 2, 4], [1, 0, 4, 2, 3]] ++
  [[2, 0, 1, 3, 4], [2, 0, 1, 4, 3], [3, 0, 1, 2, 4], [4, 0, 1, 2, 3]] ++
  [[4, 1, 2, 3, 0], [3, 1, 2, 4, 0], [4, 1, 3, 2, 0], [3, 1, 4, 2, 0]] ++
  [[4, 2, 1, 3, 0], [3, 2, 1, 4, 0], [4, 3, 1, 2, 0], [3, 4, 1, 2, 0]] ++
  [[4, 0, 2, 3, 1], [3, 0, 2, 4, 1], [4, 0, 3, 2, 1], [3, 0, 4, 2, 1]] ++
  [[4, 0, 1, 3, 2], [3, 0, 1, 4, 2], [4, 0, 1, 2, 3], [3, 0, 1, 2, 4]]

/-- The inverse destination table (43_inverse_permutation_network.md R128). -/
def inverseTable : List (List Nat) :=
  [[0, 1, 2, 3, 4], [0, 1, 2, 4, 3], [0, 1, 3, 2, 4], [0, 1, 3, 4, 2]] ++
  [[0, 2, 1, 3, 4], [0, 2, 1, 4, 3], [0, 2, 3, 1, 4], [0, 2, 3, 4, 1]] ++
  [[1, 0, 2, 3, 4], [1, 0, 2, 4, 3], [1, 0, 3, 2, 4], [1, 0, 3, 4, 2]] ++
  [[1, 2, 0, 3, 4], [1, 2, 0, 4, 3], [1, 2, 3, 0, 4], [1, 2, 3, 4, 0]] ++
  [[4, 1, 2, 3, 0], [4, 1, 2, 0, 3], [4, 1, 3, 2, 0], [4, 1, 3, 0, 2]] ++
  [[4, 2, 1, 3, 0], [4, 2, 1, 0, 3], [4, 2, 3, 1, 0], [4, 2, 3, 0, 1]] ++
  [[1, 4, 2, 3, 0], [1, 4, 2, 0, 3], [1, 4, 3, 2, 0], [1, 4, 3, 0, 2]] ++
  [[1, 2, 4, 3, 0], [1, 2, 4, 0, 3], [1, 2, 3, 4, 0], [1, 2, 3, 0, 4]]

/-- The output position of input bit `k` in row `s` of a table. -/
def tableEntry (table : List (List Nat)) (s : CodeUnit) (k : Fin 5) : Nat :=
  (table.getD s.toNat []).getD k.val 5

end Sys2Proof.Machine
end

