-- ==== Sys2Proof/Safety.lean ====
section
/-! DEFINITION. What counts as a good state and a good host, in the spec's terms. -/

namespace Sys2Proof.Machine

/-- The component range of 00_scope.md R7 with the invariant of 10_state.md R25: every length is 1 to 73 and every
position is below its length. -/
def WheelsInRange (s : State) : Prop :=
  ∀ w : WheelNo,
    1 ≤ (s.kl.get w).toNat ∧ (s.kl.get w).toNat ≤ 73 ∧ (s.pos.get w).toNat < (s.kl.get w).toNat

/-- The invariants of 10_state.md R25 and R26: while INIT_DONE = 1, every position is below its length and the ten lengths
are a permutation of `LSET`. -/
def KeyStoreGood (s : State) : Prop :=
  s.initDone = true →
    (∀ w : WheelNo, (s.pos.get w).toNat < (s.kl.get w).toNat) ∧ s.kl.toList.Perm Config.lset

/-- The host's duty of 70_reset_and_hazards.md R165 for one input: it does not change K during an INIT. -/
def HostInput.keepsKeyStable : HostInput → Prop
  | .commandKeyChanging cw _ => decode cw ≠ .instr .init
  | .command _ | .commandAborted _ | .reset | .driveKey _ | .observe _ => True

/-- Every pending input keeps the duty of 70_reset_and_hazards.md R165. -/
def KeyWindowRespected (s : State) : Prop := ∀ input ∈ s.inputs, input.keepsKeyStable

/-- The invariant a step keeps: a good key store, and a host that will not change K during an INIT. -/
def Inv (s : State) : Prop := KeyStoreGood s ∧ KeyWindowRespected s

/-- The block after a successful INIT, which the document calls an engine (10_state.md R28), with its invariants. -/
def EngineReady (s : State) : Prop := s.initDone = true ∧ KeyStoreGood s

/-- The unit a DATA field carries, none above 31 (30_encoding.md R57). -/
def legalUnit (data : DataField) : Option CodeUnit :=
  if data.toNat ≤ 31 then some (BitVec.ofNat 5 data.toNat) else none

/-- The unit of a response whose STATUS is 000, none for an error (30_encoding.md R54). -/
def answeredUnit (rw : ResponseWord) : Option CodeUnit :=
  if rw.toNat < 32 then some (BitVec.ofNat 5 rw.toNat) else none

/-- The word of ENC with a DATA field (30_encoding.md R58), as an input of the host. -/
def encInput (data : DataField) : HostInput := .command (BitVec.ofNat 16 (0x4000 + data.toNat))

/-- The word of DEC with a DATA field (30_encoding.md R58), as an input of the host. -/
def decInput (data : DataField) : HostInput := .command (BitVec.ofNat 16 (0x8000 + data.toNat))

/-- Two states agree on the architectural elements of 10_state.md R20. -/
def SameBlock (s t : State) : Prop :=
  s.pos = t.pos ∧ s.kl = t.kl ∧ s.kp = t.kp ∧ s.initDone = t.initDone

end Sys2Proof.Machine
end

