-- ==== Sys2Proof/WellFormed.lean ====
section
/-! DEFINITION. The operand check of the assembler: `ENC u` and `DEC u` are refused for u > 31 (30_encoding.md R61).
An ill-formed command still has a word (written with `.word`), decodes and runs: it raises an error (R58). -/

namespace Sys2Proof

/-- Does the assembler accept the command (30_encoding.md R61; the legal operand range of R58)? Log 10. -/
def Instr.wellFormed : Instr → Bool
  | .init => true
  | .enc data => decide (data.toNat ≤ 31)
  | .dec data => decide (data.toNat ≤ 31)

end Sys2Proof
end

