-- ==== Sys2Proof/Certificates/Slice0/Obligations.lean ====
section
/-! DEFINITION. The statements for the provers, each from a rule of spec/. -/

open Sys2Proof Sys2Proof.Machine

/-! ## Encoding -/

/-- 30_encoding.md R58, R60: the decoder gives back every command the encoder writes, with every DATA value, and a word
that decodes to a command is the one word the encoder writes for it. -/
def Obligations.DecodeEncodeAgree : Prop :=
  (∀ i : Instr, decode (encode i) = .instr i) ∧
  ∀ (cw : CommandWord) (i : Instr), decode cw = .instr i → encode i = cw

/-- 30_encoding.md R56: every word decodes to exactly one of INIT, ENC, DEC, ILLEGAL, and to which, by its bits. -/
def Obligations.DecoderClassifiesEveryWord : Prop :=
  ∀ cw : CommandWord,
    (decode cw = .instr .init ↔ cw = 0x0000) ∧
    (∀ data, decode cw = .instr (.enc data) ↔ cw.extractLsb' 8 8 = 0x40 ∧ cw.extractLsb' 0 8 = data) ∧
    (∀ data, decode cw = .instr (.dec data) ↔ cw.extractLsb' 8 8 = 0x80 ∧ cw.extractLsb' 0 8 = data) ∧
    ((∃ why, decode cw = .illegal why) ↔
      cw.extractLsb' 8 6 ≠ 0 ∨ (cw.extractLsb' 8 6 = 0 ∧ cw.extractLsb' 14 2 = 3) ∨
      (cw.extractLsb' 8 8 = 0x00 ∧ cw.extractLsb' 0 8 ≠ 0))

/-- 30_encoding.md R59: the three sets of illegal words, and that each of their words is answered ILLEGAL_COMMAND with no
change of the block. -/
def Obligations.IllegalSetsAreAnswered : Prop :=
  (∀ cw : CommandWord, decode cw = .illegal .reservedBits ↔ cw.extractLsb' 8 6 ≠ 0) ∧
  (∀ cw : CommandWord, decode cw = .illegal .reservedOp ↔ 0xC000 ≤ cw.toNat ∧ cw.toNat ≤ 0xC0FF) ∧
  (∀ cw : CommandWord, decode cw = .illegal .initData ↔ 0x0001 ≤ cw.toNat ∧ cw.toNat ≤ 0x00FF) ∧
  ∀ (s : State) (cw : CommandWord) (rest : List HostInput) (why : IllegalCause),
    s.inputs = .command cw :: rest → decode cw = .illegal why →
    ∃ t, step s = .next t ∧ SameBlock s t ∧ t.outputs = s.outputs ++ [.response 0b01100000]

/-- 95_test_vectors.md 2.7, by 30_encoding.md R53 and R56: a few words and what they stand for. -/
def Obligations.SampleWordsDecode : Prop :=
  decode 0b0000000000000000 = .instr .init ∧
  decode 0b0100000000011111 = .instr (.enc 31) ∧
  decode 0b0100000000100000 = .instr (.enc 32) ∧
  decode 0b1000000000000101 = .instr (.dec 5) ∧
  decode 0b1000000010100000 = .instr (.dec 160) ∧
  decode 0b0000000000000001 = .illegal .initData ∧
  decode 0b1100000000011111 = .illegal .reservedOp ∧
  decode 0b0100000100000101 = .illegal .reservedBits ∧
  decode 0b1011111100000000 = .illegal .reservedBits

/-- 30_encoding.md R61: what each line of the assembler writes. `INIT` and `RESTART` are 0x0000; `ENC u` is 0x4000 + u and
`DEC u` is 0x8000 + u, refused for u > 31; `ENCS` and `DECS` expand to one such word per unit in order, and are refused when
a unit is above 31; `.word` writes any 16-bit word. An empty `ENCS` is refused because R61 writes n ≥ 1 for it; that an
empty `DECS` is refused too is the model's inference (DEDUCED, log 11). The last clause is about the model's own notion of a
well-formed command (DESIGN CHOICE, log 10). -/
def Obligations.AssemblerExpandsStreams : Prop :=
  assembleLine .init = some [0x0000] ∧ assembleLine .restart = some [0x0000] ∧
  (∀ u : Nat, u ≤ 31 →
    assembleLine (.enc u) = some [BitVec.ofNat 16 (0x4000 + u)] ∧
    assembleLine (.dec u) = some [BitVec.ofNat 16 (0x8000 + u)]) ∧
  (∀ u : Nat, 31 < u → assembleLine (.enc u) = none ∧ assembleLine (.dec u) = none) ∧
  (∀ cw : CommandWord, assembleLine (.word cw.toNat) = some [cw]) ∧
  (∀ us : List Nat, us ≠ [] → (∀ u ∈ us, u ≤ 31) →
    assembleLine (.encs us) = some (us.map fun u => BitVec.ofNat 16 (0x4000 + u)) ∧
    assembleLine (.decs us) = some (us.map fun u => BitVec.ofNat 16 (0x8000 + u))) ∧
  (∀ us : List Nat, us = [] ∨ (∃ u ∈ us, 31 < u) →
    assembleLine (.encs us) = none ∧ assembleLine (.decs us) = none) ∧
  ∀ i : Instr, i.wellFormed = true ↔
    ∃ l, assembleLine l = some [encode i] ∧ ∀ h, l ≠ .word h

/-! ## The response and the errors -/

/-- 30_encoding.md R54: STATUS in bits 7 to 5, RDATA in bits 4 to 0, with the codes of R55. -/
def Obligations.ResponseWordLayout : Prop :=
  ∀ d : CodeUnit,
    (∀ st : Status, (responseWord st d).extractLsb' 0 5 = d ∧ readStatus (responseWord st d) = some st) ∧
    (responseWord .ok d).extractLsb' 5 3 = 0b000 ∧
    (responseWord (.error .domainError) d).extractLsb' 5 3 = 0b001 ∧
    (responseWord (.error .configError) d).extractLsb' 5 3 = 0b010 ∧
    (responseWord (.error .illegalCommand) d).extractLsb' 5 3 = 0b011 ∧
    (responseWord (.error .notInitialised) d).extractLsb' 5 3 = 0b100

/-- 60_exceptions.md R146 and R140: every command is answered with exactly one response, and its STATUS is the first
cause in the priority order, for every word and every state. -/
def Obligations.StatusFollowsPriority : Prop :=
  ∀ (s : State) (cw : CommandWord) (rest : List HostInput), s.inputs = .command cw :: rest →
    ∃ t rw, step s = .next t ∧ t.inputs = rest ∧ t.outputs = s.outputs ++ [.response rw] ∧
      rw.extractLsb' 5 3 =
        (if cw.extractLsb' 8 6 ≠ 0 then 0b011
        else if cw.extractLsb' 14 2 = 3 then 0b011
        else if cw.extractLsb' 14 2 = 0 then
          (if cw.extractLsb' 0 8 ≠ 0 then 0b011 else if validK s.keyPort then 0b000 else 0b010)
        else if s.initDone = false then 0b100
        else if 31 < (cw.extractLsb' 0 8).toNat then 0b001
        else 0b000 : BitVec 3)

/-- 30_encoding.md R54, R55: RDATA is 00000 in every response but ENC's and DEC's OK, and the STATUS codes 101, 110, 111
are never produced, also when K changes during the command. -/
def Obligations.ResponseDataOnlyForUnits : Prop :=
  ∀ (s t : State) (cw : CommandWord) (k : KeyMaterial) (rest : List HostInput),
    (s.inputs = .command cw :: rest ∨ s.inputs = .commandKeyChanging cw k :: rest) → step s = .next t →
    ∃ rw, t.outputs = s.outputs ++ [.response rw] ∧ (rw.extractLsb' 5 3).toNat ≤ 4 ∧
      (rw.extractLsb' 5 3 ≠ 0 ∨ cw = 0x0000 → rw.extractLsb' 0 5 = 0)

/-- 60_exceptions.md R141: the three causes of ILLEGAL_COMMAND, whatever INIT_DONE is. -/
def Obligations.IllegalWordsRaiseIllegalCommand : Prop :=
  ∀ (s : State) (cw : CommandWord) (rest : List HostInput), s.inputs = .command cw :: rest →
    (cw.extractLsb' 8 6 ≠ 0 ∨ cw.extractLsb' 14 2 = 3 ∨ (cw.extractLsb' 14 2 = 0 ∧ cw.extractLsb' 0 8 ≠ 0)) →
    step s = .next { s with
      inputs := rest
      freeIndex := s.freeIndex + 1
      keyStable := true
      outputs := s.outputs ++ [.response 0b01100000] }

/-- 60_exceptions.md R142: ENC and DEC before any INIT has succeeded, with every DATA value. -/
def Obligations.UnitBeforeInitIsNotInitialised : Prop :=
  ∀ (s : State) (data : DataField), s.initDone = false →
    exec (.enc data) s = .next { s with outputs := s.outputs ++ [.response 0b10000000] } ∧
    exec (.dec data) s = .next { s with outputs := s.outputs ++ [.response 0b10000000] }

/-- 60_exceptions.md R143: ENC and DEC with DATA above 31 are not masked. -/
def Obligations.LargeUnitIsDomainError : Prop :=
  ∀ (s : State) (data : DataField), s.initDone = true → 31 < data.toNat →
    exec (.enc data) s = .next { s with outputs := s.outputs ++ [.response 0b00100000] } ∧
    exec (.dec data) s = .next { s with outputs := s.outputs ++ [.response 0b00100000] }

/-- 60_exceptions.md R144 and 40_rotor_position_register.md R78: each of the three faults of key material makes INIT
respond CONFIG_ERROR and write nothing. -/
def Obligations.BadKeyIsConfigError : Prop :=
  ∀ s : State, s.keyStable = true →
    ((∃ w, s.keyPort.lengths.get w ∉ Config.lset) ∨
      (∃ v w, v ≠ w ∧ s.keyPort.lengths.get v = s.keyPort.lengths.get w) ∨
      (∃ w, (s.keyPort.lengths.get w).toNat ≤ (s.keyPort.indicators.get w).toNat)) →
    exec .init s = .next { s with outputs := s.outputs ++ [.response 0b01000000] }

/-- 60_exceptions.md R145: a command answered with an error code writes nothing of the block. -/
def Obligations.ErrorsChangeNothing : Prop :=
  ∀ (s t : State) (cw : CommandWord) (k : KeyMaterial) (rest : List HostInput) (rw : ResponseWord),
    (s.inputs = .command cw :: rest ∨ s.inputs = .commandKeyChanging cw k :: rest) → step s = .next t →
    t.outputs = s.outputs ++ [.response rw] → rw.extractLsb' 5 3 ≠ 0 → SameBlock s t

/-- 60_exceptions.md R147: after a command that was answered with an error, the next command is answered and runs as if
the first had not been issued. -/
def Obligations.ErrorsAreNotSticky : Prop :=
  ∀ (s b : State) (bad cw : CommandWord) (e : ResponseWord), KeyStoreGood s →
    step { s with inputs := [.command bad] } = .next b →
    b.outputs = s.outputs ++ [.response e] → e.extractLsb' 5 3 ≠ 0 →
    ∃ t u rw,
      core.run 2 { s with inputs := [.command bad, .command cw] } = .next t ∧
      step { s with inputs := [.command cw] } = .next u ∧
      t.outputs = s.outputs ++ [.response e, .response rw] ∧ u.outputs = s.outputs ++ [.response rw] ∧
      SameBlock t u

/-! ## INIT -/

/-- 40_rotor_position_register.md R77: `ValidK` is the equality of multisets with the indicator bound; the first part is
membership in `LSET` with no two lengths equal; the patterns do not matter and every ordering of `LSET` is accepted. -/
def Obligations.ValidKeyMaterial : Prop :=
  (∀ k : KeyMaterial, validK k = true ↔
    (Multiset.ofList k.lengths.toList = Multiset.ofList [73, 71, 69, 67, 65, 64, 61, 59, 53, 47]) ∧
    ∀ w, (k.indicators.get w).toNat < (k.lengths.get w).toNat) ∧
  (∀ k : KeyMaterial, Multiset.ofList k.lengths.toList = Multiset.ofList [73, 71, 69, 67, 65, 64, 61, 59, 53, 47] ↔
    (∀ w, k.lengths.get w ∈ ([73, 71, 69, 67, 65, 64, 61, 59, 53, 47] : List WheelLength)) ∧
    ∀ v w, k.lengths.get v = k.lengths.get w → v = w) ∧
  ∀ (k : KeyMaterial) (p : Vector Pattern 10), validK { k with patterns := p } = validK k

/-- 40_rotor_position_register.md R76, R79: INIT with valid key material loads all of it, whatever came before, and
responds OK with RDATA 00000; with invalid key material it responds CONFIG_ERROR. Nothing else changes. -/
def Obligations.InitLoadsKeyMaterial : Prop :=
  ∀ s : State, s.keyStable = true →
    ((Multiset.ofList s.keyPort.lengths.toList = Multiset.ofList Config.lset ∧
      ∀ w, (s.keyPort.indicators.get w).toNat < (s.keyPort.lengths.get w).toNat) →
      exec .init s = .next { s with
        kl := s.keyPort.lengths
        kp := s.keyPort.patterns
        pos := s.keyPort.indicators
        initDone := true
        outputs := s.outputs ++ [.response 0b00000000] }) ∧
    (¬(Multiset.ofList s.keyPort.lengths.toList = Multiset.ofList Config.lset ∧
      ∀ w, (s.keyPort.indicators.get w).toNat < (s.keyPort.lengths.get w).toNat) →
      exec .init s = .next { s with outputs := s.outputs ++ [.response 0b01000000] })

/-- 70_reset_and_hazards.md R165 with the model's choice of log 6 (DESIGN CHOICE): an INIT during which K changes is
answered OK, with INIT_DONE set and nothing said of the key store, or CONFIG_ERROR with nothing written. -/
def Obligations.InitWithChangingKey : Prop :=
  ∀ s : State, s.keyStable = false →
    ∃ t, exec .init s = .next t ∧ t.keyPort = s.keyPort ∧ t.inputs = s.inputs ∧ t.freeIndex = s.freeIndex ∧
      ((t.initDone = true ∧ t.outputs = s.outputs ++ [.response 0b00000000]) ∨
        (SameBlock s t ∧ t.outputs = s.outputs ++ [.response 0b01000000]))

/-- The frame of INIT: what stands on the block's pins and the inputs left are unchanged, and one response is added. -/
def Obligations.InitFrame : Prop :=
  ∀ s t : State, exec .init s = .next t →
    t.keyPort = s.keyPort ∧ t.keyStable = s.keyStable ∧ t.inputs = s.inputs ∧ t.freeIndex = s.freeIndex ∧
    ∃ rw, t.outputs = s.outputs ++ [.response rw]

/-- 70_reset_and_hazards.md R165: K changing while no INIT is executing does not affect the block: a command word that is
not INIT gives, on a good key store, what it gives with K held stable, but for the new value on K; and driving K changes
nothing else. -/
def Obligations.KeyChangeOutsideInitIsHarmless : Prop :=
  (∀ (s : State) (cw : CommandWord) (k : KeyMaterial) (rest : List HostInput), KeyStoreGood s → cw ≠ 0x0000 →
    ∃ t, step { s with inputs := .command cw :: rest } = .next t ∧
      step { s with inputs := .commandKeyChanging cw k :: rest } = .next { t with keyPort := k }) ∧
  ∀ (s : State) (k : KeyMaterial) (rest : List HostInput),
    step { s with inputs := .driveKey k :: rest } =
      .next { s with inputs := rest, freeIndex := s.freeIndex + 1, keyPort := k, keyStable := true }

/-! ## The wheels -/

/-- 10_state.md R22: X-bank member `i` is wheel `i`, S-bank member `i` is wheel `5 + i`. -/
def Obligations.BankMembersAreNumberedInOrder : Prop :=
  ∀ i : Fin 5, (Bank.x.wheel i).val = i.val ∧ (Bank.s.wheel i).val = 5 + i.val

/-- 40_rotor_position_register.md R70, R73: one wheel's advance, its wrap, and that no other wheel and nothing else moves. -/
def Obligations.WheelAdvancesModuloLength : Prop :=
  ∀ (s : State) (w : WheelNo), s.kl.get w ≠ 0 →
    ((advWheel w s).pos.get w).toNat = ((s.pos.get w).toNat + 1) % (s.kl.get w).toNat ∧
    ((advWheel w s).pos.get w).toNat < (s.kl.get w).toNat ∧
    ((s.pos.get w).toNat + 1 = (s.kl.get w).toNat → (advWheel w s).pos.get w = 0) ∧
    ((s.pos.get w).toNat + 1 < (s.kl.get w).toNat →
      ((advWheel w s).pos.get w).toNat = (s.pos.get w).toNat + 1) ∧
    (∀ v, v ≠ w → (advWheel w s).pos.get v = s.pos.get v) ∧
    advWheel w s = { s with pos := (advWheel w s).pos }

/-- 40_rotor_position_register.md R71, R72: a bank's advance moves its five wheels and no wheel of the other bank; the
block's advance moves all ten, each by exactly one. -/
def Obligations.BanksAdvanceInLockStep : Prop :=
  ∀ (s : State) (w : WheelNo), s.kl.get w ≠ 0 →
    ((advAll s).pos.get w).toNat = ((s.pos.get w).toNat + 1) % (s.kl.get w).toNat ∧
    (w.val < 5 →
      ((advBank .x s).pos.get w).toNat = ((s.pos.get w).toNat + 1) % (s.kl.get w).toNat ∧
      (advBank .s s).pos.get w = s.pos.get w) ∧
    (5 ≤ w.val →
      ((advBank .s s).pos.get w).toNat = ((s.pos.get w).toNat + 1) % (s.kl.get w).toNat ∧
      (advBank .x s).pos.get w = s.pos.get w)

/-- 41_wheel_bank_combiner.md R90, R91: bit `i` of a bank value is the pattern bit at the position of member `i`, and the
value is the sum of the bits shifted to their places. -/
def Obligations.BankValueCombinesCurrentBits : Prop :=
  ∀ s : State, WheelsInRange s →
    (∀ i : Fin 5, (bankValue .x s).getLsbD i.val =
      (s.kp.get (i.castLE (by decide))).getLsbD (s.pos.get (i.castLE (by decide))).toNat) ∧
    (∀ i : Fin 5, (bankValue .s s).getLsbD i.val =
      (s.kp.get (i.natAdd 5)).getLsbD (s.pos.get (i.natAdd 5)).toNat) ∧
    ∀ b : Bank, (bankValue b s).toNat =
      ∑ i : Fin 5, ((s.kp.get (b.wheel i)).getLsbD (s.pos.get (b.wheel i)).toNat).toNat <<< i.val

/-- 10_state.md R34: after `n` advances every position is the start plus `n`, modulo its length. -/
def Obligations.PositionsCountAdvances : Prop :=
  ∀ (s : State) (n : Nat) (w : WheelNo), WheelsInRange s →
    ((advAll^[n] s).pos.get w).toNat = ((s.pos.get w).toNat + n) % (s.kl.get w).toNat

/-- 40_rotor_position_register.md R74: a bank is back after a multiple of the lcm of its five lengths and not before, the
block after a multiple of the lcm of all ten; a bank's VALUE can be back while its state is not. -/
def Obligations.AdvancePeriodIsLcm : Prop :=
  (∀ s : State, WheelsInRange s →
    (∀ (b : Bank) (n : Nat),
      (∀ i : Fin 5, ((advBank b)^[n] s).pos.get (b.wheel i) = s.pos.get (b.wheel i)) ↔
        Finset.univ.lcm (fun i : Fin 5 => (s.kl.get (b.wheel i)).toNat) ∣ n) ∧
    ∀ n : Nat, (advAll^[n] s).pos = s.pos ↔
      Finset.univ.lcm (fun w : WheelNo => (s.kl.get w).toNat) ∣ n) ∧
  ∃ (s : State) (b : Bank) (n : Nat), WheelsInRange s ∧ 0 < n ∧
    bankValue b ((advBank b)^[n] s) = bankValue b s ∧
    ∃ i : Fin 5, ((advBank b)^[n] s).pos.get (b.wheel i) ≠ s.pos.get (b.wheel i)

/-- 10_state.md R34: the period of the whole block is 893,622,318,929,520,960 for every valid key. -/
def Obligations.EnginePeriodOfEveryKey : Prop :=
  ∀ (s : State) (n : Nat), EngineReady s →
    ((advAll^[n] s).pos = s.pos ↔ 893622318929520960 ∣ n)

/-! ## The permutation network -/

/-- 42_permutation_network_xor_stage.md R101 to R105: each stage in the document's positional form, and that it passes the
value through when its gate is 0. -/
def Obligations.SwapStagesPositional : Prop :=
  ∀ (p0 p1 p2 p3 p4 : Bool) (s : CodeUnit),
    (sw4 (fromPositional p0 p1 p2 p3 p4) s =
      if s.getLsbD 4 then fromPositional p4 p1 p2 p3 p0 else fromPositional p0 p1 p2 p3 p4) ∧
    (sw3 (fromPositional p0 p1 p2 p3 p4) s =
      if s.getLsbD 3 then fromPositional p0 p1 p2 p4 p3 else fromPositional p0 p1 p2 p3 p4) ∧
    (sw2 (fromPositional p0 p1 p2 p3 p4) s =
      if s.getLsbD 2 then fromPositional p0 p1 p3 p2 p4 else fromPositional p0 p1 p2 p3 p4) ∧
    (sw1 (fromPositional p0 p1 p2 p3 p4) s =
      if s.getLsbD 1 then fromPositional p0 p2 p1 p3 p4 else fromPositional p0 p1 p2 p3 p4) ∧
    (sw0 (fromPositional p0 p1 p2 p3 p4) s =
      if s.getLsbD 0 then fromPositional p1 p0 p2 p3 p4 else fromPositional p0 p1 p2 p3 p4)

/-- 42_permutation_network_xor_stage.md R106, 43_inverse_permutation_network.md R120: the two networks are the five stages
in the two orders. -/
def Obligations.NetworksComposeStages : Prop :=
  ∀ v s : CodeUnit,
    fwd v s = sw0 (sw1 (sw2 (sw3 (sw4 v s) s) s) s) s ∧ inv v s = sw4 (sw3 (sw2 (sw1 (sw0 v s) s) s) s) s

/-- 42_permutation_network_xor_stage.md R107: each stage applied twice is the identity. -/
def Obligations.SwapStagesAreInvolutions : Prop :=
  ∀ (k : Fin 5) (v s : CodeUnit), swapStage k (swapStage k v s) s = v

/-- 42_permutation_network_xor_stage.md R108: the destination table; for each `s` it gives one permutation of the bit
positions, whatever the value; so the number of one bits is kept, 0 and 31 stay, `s = 0` changes nothing, and the map is a
bijection. Rows 14 and 31 are equal, rows 15 and 30 are equal, and no other two rows are. -/
def Obligations.ForwardNetworkPermutesBits : Prop :=
  (∀ s : CodeUnit,
    (∃ p : Equiv.Perm (Fin 5), ∀ k : Fin 5, tableEntry forwardTable s k = (p k).val ∧
      ∀ v : CodeUnit, (fwd v s).getLsbD (p k).val = v.getLsbD k.val) ∧
    (∀ v : CodeUnit, ((List.finRange 5).filter fun i => (fwd v s).getLsbD i.val).length =
      ((List.finRange 5).filter fun i => v.getLsbD i.val).length) ∧
    fwd 0 s = 0 ∧ fwd 31 s = 31 ∧ (∀ v : CodeUnit, fwd v 0 = v) ∧
    Function.Bijective fun v : CodeUnit => fwd v s) ∧
  ∀ s s' : CodeUnit, s.toNat < s'.toNat →
    ((∀ k : Fin 5, tableEntry forwardTable s k = tableEntry forwardTable s' k) ↔
      (s = 14 ∧ s' = 31) ∨ (s = 15 ∧ s' = 30))

/-- 43_inverse_permutation_network.md R128: the inverse network moves bit `k` to the place the inverse table gives, and
the two tables undo each other row by row. -/
def Obligations.InverseNetworkFollowsTable : Prop :=
  ∀ (s : CodeUnit) (k : Fin 5),
    (∀ v : CodeUnit, (inv v s).getLsbD (tableEntry inverseTable s k) = v.getLsbD k.val) ∧
    ∃ j : Fin 5, tableEntry forwardTable s k = j.val ∧ tableEntry inverseTable s j = k.val

/-- 43_inverse_permutation_network.md R123: the two networks undo each other, in both orders. -/
def Obligations.NetworksAreInverse : Prop :=
  ∀ v s : CodeUnit, inv (fwd v s) s = v ∧ fwd (inv v s) s = v

/-! ## ENC and DEC -/

/-- 42_permutation_network_xor_stage.md R109: all of ENC, for every state and every DATA value: the two errors; and the
unit encrypted with the bank values from before the advance, every wheel advanced by one, and nothing else changed. -/
def Obligations.EncEncryptsOneUnit : Prop :=
  ∀ (s : State) (data : DataField),
    (s.initDone = false →
      exec (.enc data) s = .next { s with outputs := s.outputs ++ [.response 0b10000000] }) ∧
    (s.initDone = true → 31 < data.toNat →
      exec (.enc data) s = .next { s with outputs := s.outputs ++ [.response 0b00100000] }) ∧
    (s.initDone = true → data.toNat ≤ 31 →
      ∃ t, exec (.enc data) s = .next t ∧
        t = { s with
          pos := t.pos
          outputs := s.outputs ++
            [.response ((fwd (data.setWidth 5 ^^^ bankValue .x s) (bankValue .s s)).setWidth 8)] } ∧
        ∀ w, s.kl.get w ≠ 0 → (t.pos.get w).toNat = ((s.pos.get w).toNat + 1) % (s.kl.get w).toNat)

/-- 43_inverse_permutation_network.md R122: all of DEC, for every state and every DATA value. -/
def Obligations.DecDecryptsOneUnit : Prop :=
  ∀ (s : State) (data : DataField),
    (s.initDone = false →
      exec (.dec data) s = .next { s with outputs := s.outputs ++ [.response 0b10000000] }) ∧
    (s.initDone = true → 31 < data.toNat →
      exec (.dec data) s = .next { s with outputs := s.outputs ++ [.response 0b00100000] }) ∧
    (s.initDone = true → data.toNat ≤ 31 →
      ∃ t, exec (.dec data) s = .next t ∧
        t = { s with
          pos := t.pos
          outputs := s.outputs ++
            [.response ((inv (data.setWidth 5) (bankValue .s s) ^^^ bankValue .x s).setWidth 8)] } ∧
        ∀ w, s.kl.get w ≠ 0 → (t.pos.get w).toNat = ((s.pos.get w).toNat + 1) % (s.kl.get w).toNat)

/-- The frame of ENC and DEC, on every path: the key store, INIT_DONE and the pins are unchanged; one response is added;
the positions are unchanged unless the response is OK. -/
def Obligations.UnitCommandFrame : Prop :=
  ∀ (s t : State) (data : DataField), exec (.enc data) s = .next t ∨ exec (.dec data) s = .next t →
    t.kl = s.kl ∧ t.kp = s.kp ∧ t.initDone = s.initDone ∧ t.keyPort = s.keyPort ∧ t.keyStable = s.keyStable ∧
    t.inputs = s.inputs ∧ t.freeIndex = s.freeIndex ∧
    ∃ rw, t.outputs = s.outputs ++ [.response rw] ∧ (rw.extractLsb' 5 3 ≠ 0 → t.pos = s.pos)

/-- 10_state.md R27, 92_eei_decisions.md D9: pattern bits at and above the length are unobservable: with other bits there
(and a good key store), ENC and DEC answer and move alike and every observation output reads alike. -/
def Obligations.BitsBeyondLengthAreUnobservable : Prop :=
  ∀ (s : State) (kp' : Vector Pattern 10), KeyStoreGood s →
    (∀ (w : WheelNo) (j : Nat), j < (s.kl.get w).toNat → (kp'.get w).getLsbD j = (s.kp.get w).getLsbD j) →
    (∀ data : DataField,
      (∃ t, exec (.enc data) s = .next t ∧ exec (.enc data) { s with kp := kp' } = .next { t with kp := kp' }) ∧
      ∃ t, exec (.dec data) s = .next t ∧ exec (.dec data) { s with kp := kp' } = .next { t with kp := kp' }) ∧
    ∀ port : ObsPort, observed port { s with kp := kp' } = observed port s

/-- 42_permutation_network_xor_stage.md R110, 43_inverse_permutation_network.md R125: with `s = 0` both commands XOR with
`x`; with `x = 0` too, ENC gives the unit itself. -/
def Obligations.IdentityWithoutPermutation : Prop :=
  ∀ (s : State) (u : CodeUnit), s.initDone = true → bankValue .s s = 0 →
    (∃ t, exec (.enc (u.setWidth 8)) s = .next t ∧
      t.outputs = s.outputs ++ [.response ((u ^^^ bankValue .x s).setWidth 8)]) ∧
    (∃ t, exec (.dec (u.setWidth 8)) s = .next t ∧
      t.outputs = s.outputs ++ [.response ((u ^^^ bankValue .x s).setWidth 8)]) ∧
    (bankValue .x s = 0 →
      ∃ t, exec (.enc (u.setWidth 8)) s = .next t ∧ t.outputs = s.outputs ++ [.response (u.setWidth 8)])

/-- 43_inverse_permutation_network.md R124: on two blocks in the same state, DEC of what ENC responded responds the unit
that ENC was given. -/
def Obligations.DecUndoesEnc : Prop :=
  ∀ (s s' : State) (u : CodeUnit), SameBlock s s' → WheelsInRange s → s.initDone = true →
    ∃ (c : CodeUnit) (t t' : State),
      exec (.enc (u.setWidth 8)) s = .next t ∧ t.outputs = s.outputs ++ [.response (c.setWidth 8)] ∧
      exec (.dec (c.setWidth 8)) s' = .next t' ∧ t'.outputs = s'.outputs ++ [.response (u.setWidth 8)] ∧
      SameBlock t t'

/-! ## Streams -/

/-- 10_state.md R34: after `n` unit commands that all succeed, in any mix of ENC and DEC, every position is the start plus
`n`, modulo its length; and they do all succeed. -/
def Obligations.UnitStreamCompletes : Prop :=
  ∀ (s : State) (units : List (Bool × CodeUnit)), EngineReady s →
    ∃ (t : State) (answers : List CodeUnit),
      core.run units.length { s with
        inputs := units.map fun p => if p.1 then encInput (p.2.setWidth 8) else decInput (p.2.setWidth 8) } = .next t ∧
      t.inputs = [] ∧ t.outputs = s.outputs ++ answers.map (fun a => .response (a.setWidth 8)) ∧
      answers.length = units.length ∧ t.kl = s.kl ∧ t.kp = s.kp ∧ t.initDone = true ∧
      ∀ w, (t.pos.get w).toNat = ((s.pos.get w).toNat + units.length) % (s.kl.get w).toNat

/-- 42_permutation_network_xor_stage.md R111: in two ENC streams of one length from one state, the responses at a place
where the units agree agree, and the states left agree on the block. -/
def Obligations.StreamOutputDependsOnItsUnit : Prop :=
  ∀ (s : State) (us us' : List CodeUnit), EngineReady s → us.length = us'.length →
    ∃ (t t' : State) (cs cs' : List CodeUnit),
      core.run us.length { s with inputs := us.map fun u => encInput (u.setWidth 8) } = .next t ∧
      core.run us'.length { s with inputs := us'.map fun u => encInput (u.setWidth 8) } = .next t' ∧
      t.outputs = s.outputs ++ cs.map (fun c => .response (c.setWidth 8)) ∧
      t'.outputs = s.outputs ++ cs'.map (fun c => .response (c.setWidth 8)) ∧
      cs.length = us.length ∧ cs'.length = us'.length ∧
      (∀ i : Nat, us[i]? = us'[i]? → cs[i]? = cs'[i]?) ∧ SameBlock t t'

/-- 43_inverse_permutation_network.md R126: INIT, an ENC pass over any DATA fields, INIT with the same K, a DEC pass over
any DATA fields whose legal units are the OK responses of the first: the OK responses are the legal units of the first
pass. Rejected units in either pass do no harm. -/
def Obligations.StreamRoundTrip : Prop :=
  ∀ (s : State) (k : KeyMaterial) (plain : List DataField), validK k = true →
    ∃ (t : State) (answers : List ResponseWord),
      core.run (plain.length + 2) { s with
        inputs := .driveKey k :: .command 0x0000 :: plain.map encInput } = .next t ∧
      t.outputs = s.outputs ++ .response 0 :: answers.map .response ∧ answers.length = plain.length ∧
      ∀ cipher : List DataField, cipher.filterMap legalUnit = answers.filterMap answeredUnit →
        ∃ (t' : State) (answers' : List ResponseWord),
          core.run (cipher.length + 1) { t with inputs := .command 0x0000 :: cipher.map decInput } = .next t' ∧
          t'.outputs = t.outputs ++ .response 0 :: answers'.map .response ∧
          answers'.filterMap answeredUnit = plain.filterMap legalUnit

/-! ## The whole machine -/

/-- When the word at the head of the command port decodes to a command, a step is that command's meaning, on the state with
the word taken off the port and the model's counter moved on (log 1, log 8), and with K held stable. When K changes to `k`
during the command (70_reset_and_hazards.md R165), it is the meaning with K not stable, which is what INIT asks for (log 6),
and K holds `k` afterwards. -/
def Obligations.StepRunsDecodedCommand : Prop :=
  (∀ (s : State) (cw : CommandWord) (rest : List HostInput) (i : Instr),
    s.inputs = .command cw :: rest → decode cw = .instr i →
    step s = exec i { s with inputs := rest, freeIndex := s.freeIndex + 1, keyStable := true }) ∧
  ∀ (s : State) (cw : CommandWord) (k : KeyMaterial) (rest : List HostInput) (i : Instr),
    s.inputs = .commandKeyChanging cw k :: rest → decode cw = .instr i →
    ∃ t, exec i { s with inputs := rest, freeIndex := s.freeIndex + 1, keyStable := false } = .next t ∧
      step s = .next { t with keyPort := k, keyStable := true }

/-- 10_state.md R25, R26: every step keeps every position below its length and the lengths a permutation of `LSET` while
INIT_DONE = 1, for a host that keeps K stable during INIT. -/
def Obligations.StepKeepsInvariant : Prop :=
  ∀ s t : State, Inv s → step s = .next t → Inv t

/-- The invariant holds right after reset. -/
def Obligations.ResetHasInvariant : Prop := Inv State.reset

/-- 70_reset_and_hazards.md R161: right after reset INIT_DONE is 0; ENC and DEC respond NOT_INITIALISED, illegal words
ILLEGAL_COMMAND, and INIT loads the key material that the host then drives if it is valid, else responds CONFIG_ERROR. -/
def Obligations.ResetAcceptsCommands : Prop :=
  State.reset.initDone = false ∧
  (∀ cw : CommandWord, cw.extractLsb' 8 8 = 0x40 ∨ cw.extractLsb' 8 8 = 0x80 →
    ∃ t, step (State.reset.withFetchWord 16 cw.toNat) = .next t ∧ t.outputs = [.response 0b10000000] ∧
      t.initDone = false) ∧
  (∀ (cw : CommandWord) (why : IllegalCause), decode cw = .illegal why →
    ∃ t, step (State.reset.withFetchWord 16 cw.toNat) = .next t ∧ t.outputs = [.response 0b01100000] ∧
      t.initDone = false) ∧
  ∀ k : KeyMaterial,
    ∃ t, core.run 2 { State.reset with inputs := [.driveKey k, .command 0x0000] } = .next t ∧
      t.initDone = validK k ∧
      (validK k = true → t.outputs = [.response 0] ∧ t.pos = k.indicators ∧ t.kl = k.lengths ∧ t.kp = k.patterns) ∧
      (validK k = false → t.outputs = [.response 0b01000000])

/-- 70_reset_and_hazards.md R160: RST, with or without a command in progress, clears INIT_DONE; there is no response and
the command has no effect; nothing is said of POS, KL, KP. -/
def Obligations.RstClearsInitDone : Prop :=
  ∀ (s : State) (cw : CommandWord) (rest : List HostInput),
    s.inputs = .reset :: rest ∨ s.inputs = .commandAborted cw :: rest →
    ∃ t, step s = .next t ∧ t.initDone = false ∧ t.outputs = s.outputs ∧ t.inputs = rest ∧ t.keyPort = s.keyPort ∧
      ∀ data, exec (.enc data) t = .next { t with outputs := t.outputs ++ [.response 0b10000000] } ∧
        exec (.dec data) t = .next { t with outputs := t.outputs ++ [.response 0b10000000] }

/-- 60_exceptions.md R154: with nothing to do, the block holds its state. -/
def Obligations.IdleBlockHoldsState : Prop := ∀ s : State, s.inputs = [] → step s = .next s

/-- 20_memory.md R46: a step takes the oldest input and no other, and only adds to what the host has received. -/
def Obligations.InputsAreTakenInOrder : Prop :=
  ∀ s t : State, step s = .next t → t.inputs = s.inputs.tail ∧ ∃ more, t.outputs = s.outputs ++ more ∧ more.length ≤ 1

/-- 10_state.md R31: the observation outputs while INIT_DONE = 1, with no side effect on the block, and the fault of
reading one without a value. -/
def Obligations.ObservationOutputs : Prop :=
  ∀ (s : State) (rest : List HostInput) (w : WheelNo),
    (s.initDone = true →
      step { s with inputs := .observe (.pos w) :: rest } = .next { s with
        inputs := rest, freeIndex := s.freeIndex + 1, outputs := s.outputs ++ [.obsPos w (s.pos.get w)] }) ∧
    (s.initDone = true → WheelsInRange s →
      step { s with inputs := .observe .x :: rest } = .next { s with
        inputs := rest, freeIndex := s.freeIndex + 1, outputs := s.outputs ++ [.obsX (bankValue .x s)] } ∧
      step { s with inputs := .observe .s :: rest } = .next { s with
        inputs := rest, freeIndex := s.freeIndex + 1, outputs := s.outputs ++ [.obsS (bankValue .s s)] }) ∧
    (s.initDone = false →
      step { s with inputs := .observe (.pos w) :: rest } = .fault (.obsNoValue (.pos w)) ∧
      step { s with inputs := .observe .x :: rest } = .fault (.obsNoValue .x) ∧
      step { s with inputs := .observe .s :: rest } = .fault (.obsNoValue .s)) ∧
    step { s with inputs := .observe .initDone :: rest } = .next { s with
      inputs := rest, freeIndex := s.freeIndex + 1, outputs := s.outputs ++ [.obsInitDone s.initDone] }

/-- The machine never refuses, and the one way it stops is the host's read of an observation output without a value
(10_state.md R31); every error of the block is a response (60_exceptions.md R140). -/
def Obligations.OnlyValuelessReadsStop : Prop :=
  ∀ s : State,
    (∃ t, step s = .next t) ∨
    ∃ (port : ObsPort) (rest : List HostInput), s.inputs = .observe port :: rest ∧ port ≠ .initDone ∧
      s.initDone = false ∧ step s = .fault (.obsNoValue port)

/-- 10_state.md R24, R26, R27, R28, over every input the host can give: the lengths and patterns change only in an INIT
answered OK or by RST; the positions only in these and in an ENC or DEC answered OK; INIT_DONE is set only by an INIT
answered OK and cleared only by RST. -/
def Obligations.OnlyTheseWriteTheBlock : Prop :=
  ∀ s t : State, step s = .next t →
    (t.kl ≠ s.kl ∨ t.kp ≠ s.kp →
      ((∃ rest, s.inputs = .command 0x0000 :: rest ∨ ∃ k, s.inputs = .commandKeyChanging 0x0000 k :: rest) ∧
        t.outputs = s.outputs ++ [.response 0]) ∨
      ∃ rest, s.inputs = .reset :: rest ∨ ∃ cw, s.inputs = .commandAborted cw :: rest) ∧
    (t.pos ≠ s.pos →
      ((∃ cw rest, s.inputs = .command cw :: rest ∨ ∃ k, s.inputs = .commandKeyChanging cw k :: rest) ∧
        ∃ rw, t.outputs = s.outputs ++ [.response rw] ∧ rw.extractLsb' 5 3 = 0) ∨
      ∃ rest, s.inputs = .reset :: rest ∨ ∃ cw, s.inputs = .commandAborted cw :: rest) ∧
    (s.initDone = false → t.initDone = true →
      (∃ rest, s.inputs = .command 0x0000 :: rest ∨ ∃ k, s.inputs = .commandKeyChanging 0x0000 k :: rest) ∧
        t.outputs = s.outputs ++ [.response 0]) ∧
    (s.initDone = true → t.initDone = false →
      ∃ rest, s.inputs = .reset :: rest ∨ ∃ cw, s.inputs = .commandAborted cw :: rest)

/-- 60_exceptions.md R152: a step of one block leaves every other block as it was. -/
def Obligations.BlocksShareNothing : Prop :=
  ∀ (k : Nat) (blocks after : List State), stepBlock k blocks = .next after →
    after.length = blocks.length ∧ (∀ j, j ≠ k → after[j]? = blocks[j]?) ∧
    ∀ s, blocks[k]? = some s → ∃ t, step s = .next t ∧ after[k]? = some t
end

