-- ==== Sys2Proof/Laws/State.lean ====
section
/-! SUPPORT. One lemma per field per update of State, and what each named update leaves alone. -/

namespace Sys2Proof.Machine

/-! ## respond and raise -/

@[simp] theorem respond_pos (st : Status) (d : CodeUnit) (s : State) : (respond st d s).pos = s.pos := rfl
@[simp] theorem respond_kl (st : Status) (d : CodeUnit) (s : State) : (respond st d s).kl = s.kl := rfl
@[simp] theorem respond_kp (st : Status) (d : CodeUnit) (s : State) : (respond st d s).kp = s.kp := rfl
@[simp] theorem respond_initDone (st : Status) (d : CodeUnit) (s : State) :
    (respond st d s).initDone = s.initDone := rfl
@[simp] theorem respond_keyPort (st : Status) (d : CodeUnit) (s : State) :
    (respond st d s).keyPort = s.keyPort := rfl
@[simp] theorem respond_keyStable (st : Status) (d : CodeUnit) (s : State) :
    (respond st d s).keyStable = s.keyStable := rfl
@[simp] theorem respond_inputs (st : Status) (d : CodeUnit) (s : State) :
    (respond st d s).inputs = s.inputs := rfl
@[simp] theorem respond_outputs (st : Status) (d : CodeUnit) (s : State) :
    (respond st d s).outputs = s.outputs ++ [.response (responseWord st d)] := rfl
@[simp] theorem respond_freeIndex (st : Status) (d : CodeUnit) (s : State) :
    (respond st d s).freeIndex = s.freeIndex := rfl

@[simp] theorem raise_pos (e : ErrorCode) (s : State) : (raise e s).pos = s.pos := rfl
@[simp] theorem raise_kl (e : ErrorCode) (s : State) : (raise e s).kl = s.kl := rfl
@[simp] theorem raise_kp (e : ErrorCode) (s : State) : (raise e s).kp = s.kp := rfl
@[simp] theorem raise_initDone (e : ErrorCode) (s : State) : (raise e s).initDone = s.initDone := rfl
@[simp] theorem raise_keyPort (e : ErrorCode) (s : State) : (raise e s).keyPort = s.keyPort := rfl
@[simp] theorem raise_keyStable (e : ErrorCode) (s : State) : (raise e s).keyStable = s.keyStable := rfl
@[simp] theorem raise_inputs (e : ErrorCode) (s : State) : (raise e s).inputs = s.inputs := rfl
@[simp] theorem raise_outputs (e : ErrorCode) (s : State) :
    (raise e s).outputs = s.outputs ++ [.response (responseWord (.error e) 0)] := rfl
@[simp] theorem raise_freeIndex (e : ErrorCode) (s : State) : (raise e s).freeIndex = s.freeIndex := rfl

/-! ## One wheel's advance -/

@[simp] theorem advWheel_pos (w : WheelNo) (s : State) :
    (advWheel w s).pos = s.pos.set w.val (advancedPosition w s) := rfl
@[simp] theorem advWheel_kl (w : WheelNo) (s : State) : (advWheel w s).kl = s.kl := rfl
@[simp] theorem advWheel_kp (w : WheelNo) (s : State) : (advWheel w s).kp = s.kp := rfl
@[simp] theorem advWheel_initDone (w : WheelNo) (s : State) : (advWheel w s).initDone = s.initDone := rfl
@[simp] theorem advWheel_keyPort (w : WheelNo) (s : State) : (advWheel w s).keyPort = s.keyPort := rfl
@[simp] theorem advWheel_keyStable (w : WheelNo) (s : State) : (advWheel w s).keyStable = s.keyStable := rfl
@[simp] theorem advWheel_inputs (w : WheelNo) (s : State) : (advWheel w s).inputs = s.inputs := rfl
@[simp] theorem advWheel_outputs (w : WheelNo) (s : State) : (advWheel w s).outputs = s.outputs := rfl
@[simp] theorem advWheel_freeIndex (w : WheelNo) (s : State) : (advWheel w s).freeIndex = s.freeIndex := rfl

/-! ## The advance of every wheel -/

@[simp] theorem advAll_kl (s : State) : (advAll s).kl = s.kl := rfl
@[simp] theorem advAll_kp (s : State) : (advAll s).kp = s.kp := rfl
@[simp] theorem advAll_initDone (s : State) : (advAll s).initDone = s.initDone := rfl
@[simp] theorem advAll_keyPort (s : State) : (advAll s).keyPort = s.keyPort := rfl
@[simp] theorem advAll_keyStable (s : State) : (advAll s).keyStable = s.keyStable := rfl
@[simp] theorem advAll_inputs (s : State) : (advAll s).inputs = s.inputs := rfl
@[simp] theorem advAll_outputs (s : State) : (advAll s).outputs = s.outputs := rfl
@[simp] theorem advAll_freeIndex (s : State) : (advAll s).freeIndex = s.freeIndex := rfl

/-! ## Loading the key store -/

@[simp] theorem loadKey_pos (k : KeyMaterial) (s : State) : (loadKey k s).pos = k.indicators := rfl
@[simp] theorem loadKey_kl (k : KeyMaterial) (s : State) : (loadKey k s).kl = k.lengths := rfl
@[simp] theorem loadKey_kp (k : KeyMaterial) (s : State) : (loadKey k s).kp = k.patterns := rfl
@[simp] theorem loadKey_initDone (k : KeyMaterial) (s : State) : (loadKey k s).initDone = true := rfl
@[simp] theorem loadKey_keyPort (k : KeyMaterial) (s : State) : (loadKey k s).keyPort = s.keyPort := rfl
@[simp] theorem loadKey_keyStable (k : KeyMaterial) (s : State) : (loadKey k s).keyStable = s.keyStable := rfl
@[simp] theorem loadKey_inputs (k : KeyMaterial) (s : State) : (loadKey k s).inputs = s.inputs := rfl
@[simp] theorem loadKey_outputs (k : KeyMaterial) (s : State) : (loadKey k s).outputs = s.outputs := rfl
@[simp] theorem loadKey_freeIndex (k : KeyMaterial) (s : State) : (loadKey k s).freeIndex = s.freeIndex := rfl

@[simp] theorem loadUnspecifiedKey_initDone (s : State) : (loadUnspecifiedKey s).initDone = true := rfl
@[simp] theorem loadUnspecifiedKey_keyPort (s : State) : (loadUnspecifiedKey s).keyPort = s.keyPort := rfl
@[simp] theorem loadUnspecifiedKey_keyStable (s : State) : (loadUnspecifiedKey s).keyStable = s.keyStable := rfl
@[simp] theorem loadUnspecifiedKey_inputs (s : State) : (loadUnspecifiedKey s).inputs = s.inputs := rfl
@[simp] theorem loadUnspecifiedKey_outputs (s : State) : (loadUnspecifiedKey s).outputs = s.outputs := rfl
@[simp] theorem loadUnspecifiedKey_freeIndex (s : State) : (loadUnspecifiedKey s).freeIndex = s.freeIndex := rfl

/-! ## RST -/

@[simp] theorem assertReset_initDone (s : State) : (assertReset s).initDone = false := rfl
@[simp] theorem assertReset_keyPort (s : State) : (assertReset s).keyPort = s.keyPort := rfl
@[simp] theorem assertReset_keyStable (s : State) : (assertReset s).keyStable = s.keyStable := rfl
@[simp] theorem assertReset_inputs (s : State) : (assertReset s).inputs = s.inputs := rfl
@[simp] theorem assertReset_outputs (s : State) : (assertReset s).outputs = s.outputs := rfl
@[simp] theorem assertReset_freeIndex (s : State) : (assertReset s).freeIndex = s.freeIndex := rfl

/-! ## The ports -/

@[simp] theorem driveKeyPort_pos (k : KeyMaterial) (s : State) : (driveKeyPort k s).pos = s.pos := rfl
@[simp] theorem driveKeyPort_kl (k : KeyMaterial) (s : State) : (driveKeyPort k s).kl = s.kl := rfl
@[simp] theorem driveKeyPort_kp (k : KeyMaterial) (s : State) : (driveKeyPort k s).kp = s.kp := rfl
@[simp] theorem driveKeyPort_initDone (k : KeyMaterial) (s : State) :
    (driveKeyPort k s).initDone = s.initDone := rfl
@[simp] theorem driveKeyPort_keyPort (k : KeyMaterial) (s : State) : (driveKeyPort k s).keyPort = k := rfl
@[simp] theorem driveKeyPort_keyStable (k : KeyMaterial) (s : State) : (driveKeyPort k s).keyStable = true := rfl
@[simp] theorem driveKeyPort_inputs (k : KeyMaterial) (s : State) : (driveKeyPort k s).inputs = s.inputs := rfl
@[simp] theorem driveKeyPort_outputs (k : KeyMaterial) (s : State) : (driveKeyPort k s).outputs = s.outputs := rfl
@[simp] theorem driveKeyPort_freeIndex (k : KeyMaterial) (s : State) :
    (driveKeyPort k s).freeIndex = s.freeIndex := rfl

@[simp] theorem setKeyStable_pos (b : Bool) (s : State) : (setKeyStable b s).pos = s.pos := rfl
@[simp] theorem setKeyStable_kl (b : Bool) (s : State) : (setKeyStable b s).kl = s.kl := rfl
@[simp] theorem setKeyStable_kp (b : Bool) (s : State) : (setKeyStable b s).kp = s.kp := rfl
@[simp] theorem setKeyStable_initDone (b : Bool) (s : State) : (setKeyStable b s).initDone = s.initDone := rfl
@[simp] theorem setKeyStable_keyPort (b : Bool) (s : State) : (setKeyStable b s).keyPort = s.keyPort := rfl
@[simp] theorem setKeyStable_keyStable (b : Bool) (s : State) : (setKeyStable b s).keyStable = b := rfl
@[simp] theorem setKeyStable_inputs (b : Bool) (s : State) : (setKeyStable b s).inputs = s.inputs := rfl
@[simp] theorem setKeyStable_outputs (b : Bool) (s : State) : (setKeyStable b s).outputs = s.outputs := rfl
@[simp] theorem setKeyStable_freeIndex (b : Bool) (s : State) : (setKeyStable b s).freeIndex = s.freeIndex := rfl

@[simp] theorem takeInput_pos (r : List HostInput) (s : State) : (takeInput r s).pos = s.pos := rfl
@[simp] theorem takeInput_kl (r : List HostInput) (s : State) : (takeInput r s).kl = s.kl := rfl
@[simp] theorem takeInput_kp (r : List HostInput) (s : State) : (takeInput r s).kp = s.kp := rfl
@[simp] theorem takeInput_initDone (r : List HostInput) (s : State) :
    (takeInput r s).initDone = s.initDone := rfl
@[simp] theorem takeInput_keyPort (r : List HostInput) (s : State) : (takeInput r s).keyPort = s.keyPort := rfl
@[simp] theorem takeInput_keyStable (r : List HostInput) (s : State) :
    (takeInput r s).keyStable = s.keyStable := rfl
@[simp] theorem takeInput_inputs (r : List HostInput) (s : State) : (takeInput r s).inputs = r := rfl
@[simp] theorem takeInput_outputs (r : List HostInput) (s : State) : (takeInput r s).outputs = s.outputs := rfl
@[simp] theorem takeInput_freeIndex (r : List HostInput) (s : State) :
    (takeInput r s).freeIndex = s.freeIndex + 1 := rfl

end Sys2Proof.Machine
end

