-- ==== Sys2Proof/Laws/Ops.lean ====
section
/-! SUPPORT. What each shared operation can do, said once: the operand, the bits of a 5-bit value, the advance, a unit
command. -/

namespace Sys2Proof.Machine

/-! ## Bits of a 5-bit value -/

/-- Bit `i` of an assembled value is the bit it was given. -/
theorem assembleBits_getLsbD (b : Fin 5 → Bool) (i : Fin 5) : (assembleBits b).getLsbD i.val = b i := by
  have key : ∀ b0 b1 b2 b3 b4 : Bool, ∀ j : Fin 5,
      (BitVec.ofBool b4 ++ BitVec.ofBool b3 ++ BitVec.ofBool b2 ++ BitVec.ofBool b1 ++ BitVec.ofBool b0 :
        BitVec 5).getLsbD j.val = match j with | 0 => b0 | 1 => b1 | 2 => b2 | 3 => b3 | 4 => b4 := by
    decide
  rw [assembleBits, key]
  fin_cases i <;> rfl

/-- Two 5-bit values with the same five bits are equal. -/
theorem codeUnit_ext {u v : CodeUnit} (h : ∀ i : Fin 5, u.getLsbD i.val = v.getLsbD i.val) : u = v :=
  BitVec.eq_of_getLsbD_eq fun i hi => h ⟨i, hi⟩

/-! ## The operand of ENC and DEC -/

/-- The operand is taken exactly when DATA is that unit, zero-extended. -/
theorem unitOperand_eq_some {data : DataField} {u : CodeUnit} :
    unitOperand data = some u ↔ data = unitData u := by
  have key : ∀ (d : BitVec 8) (v : BitVec 5), unitOperand d = some v ↔ d = unitData v := by decide +kernel
  exact key data u

/-- The operand is not taken exactly when DATA is above 31. -/
theorem unitOperand_eq_none {data : DataField} : unitOperand data = none ↔ 31 < data.toNat := by
  have key : ∀ d : BitVec 8, unitOperand d = none ↔ 31 < d.toNat := by decide +kernel
  exact key data

/-! ## The advance -/

/-- Advancing wheel `v` writes the position of `v` and of no other wheel. -/
theorem advWheel_pos_get (v w : WheelNo) (s : State) :
    (advWheel v s).pos.get w = if v = w then advancedPosition v s else s.pos.get w := by
  rw [advWheel_pos]
  simp only [Vector.get_eq_getElem, Vector.getElem_set, Fin.ext_iff]

/-- The advance of a wheel looks at no other wheel. -/
theorem advancedPosition_advWheel {v w : WheelNo} (h : v ≠ w) (s : State) :
    advancedPosition w (advWheel v s) = advancedPosition w s := by
  simp only [advancedPosition, advWheel_kl, advWheel_freeIndex, advWheel_pos_get, if_neg h]

/-- `ADV_ALL` as ten single advances. -/
theorem advAll_eq (s : State) :
    advAll s = advWheel 9 (advWheel 8 (advWheel 7 (advWheel 6 (advWheel 5
      (advWheel 4 (advWheel 3 (advWheel 2 (advWheel 1 (advWheel 0 s))))))))) := rfl

/-- `ADV_ALL` takes every wheel to its advanced position, each computed from the state before the command. -/
theorem advAll_pos_get (w : WheelNo) (s : State) : (advAll s).pos.get w = advancedPosition w s := by
  rw [advAll_eq]
  fin_cases w <;>
    simp [advWheel_pos_get, advancedPosition_advWheel, -advWheel_pos]

/-- Two files of position registers that agree on every wheel are equal. -/
theorem positions_ext {p q : Vector Position 10} (h : ∀ w : WheelNo, p.get w = q.get w) : p = q :=
  Vector.ext fun i hi => h ⟨i, hi⟩

/-- `ADV_ALL` writes the positions and nothing else. -/
theorem advAll_frame (s : State) : advAll s = { s with pos := (advAll s).pos } := rfl

/-- The positions after `ADV_ALL` depend on the positions, the lengths and the free values only. -/
theorem advAll_pos_congr {s t : State} (hp : s.pos = t.pos) (hl : s.kl = t.kl) (hf : s.freeIndex = t.freeIndex) :
    (advAll s).pos = (advAll t).pos := by
  refine positions_ext fun w => ?_
  simp only [advAll_pos_get, advancedPosition, hp, hl, hf]

/-- Where every wheel has a length, they depend on the positions and the lengths only. -/
theorem advAll_pos_congr_of_lengths {s t : State} (hp : s.pos = t.pos) (hl : s.kl = t.kl)
    (hz : ∀ w, t.kl.get w ≠ 0) : (advAll s).pos = (advAll t).pos := by
  refine positions_ext fun w => ?_
  rw [advAll_pos_get, advAll_pos_get]
  unfold advancedPosition
  rw [hp, hl, if_neg (hz w), if_neg (hz w)]

/-- A wheel with a length advances by one modulo that length: the 7 bits hold the result. -/
theorem advancedPosition_toNat {w : WheelNo} {s : State} (h : s.kl.get w ≠ 0) :
    (advancedPosition w s).toNat = ((s.pos.get w).toNat + 1) % (s.kl.get w).toNat := by
  have hpos : 0 < (s.kl.get w).toNat :=
    Nat.pos_of_ne_zero fun h0 => h (BitVec.eq_of_toNat_eq (by simpa using h0))
  simp only [advancedPosition, if_neg h, BitVec.toNat_ofNat]
  exact Nat.mod_eq_of_lt (Nat.lt_trans (Nat.mod_lt _ hpos) (s.kl.get w).isLt)

/-! ## The combiner -/

/-- A wheel at a position below its length and below 73 gives the bit of its pattern register there. -/
theorem currentBit_eq {w : WheelNo} {s : State} (hl : (s.pos.get w).toNat < (s.kl.get w).toNat)
    (h : (s.pos.get w).toNat < 73) : currentBit w s = (s.kp.get w).getLsbD (s.pos.get w).toNat :=
  if_pos ⟨hl, h⟩

/-- Bit `i` of a bank value is the current bit of member `i`. -/
theorem bankValue_getLsbD (b : Bank) (i : Fin 5) (s : State) :
    (bankValue b s).getLsbD i.val = currentBit (b.wheel i) s :=
  assembleBits_getLsbD _ i

/-! ## A unit command -/

/-- Everything ENC and DEC can do. -/
theorem processUnit_cases (f : CodeUnit → CodeUnit → CodeUnit → CodeUnit) (data : DataField) (s : State) :
    (s.initDone = false ∧ processUnit f data s = raise .notInitialised s) ∨
    (s.initDone = true ∧ 31 < data.toNat ∧ processUnit f data s = raise .domainError s) ∨
    (s.initDone = true ∧ ∃ u : CodeUnit, data = unitData u ∧
      processUnit f data s = respond .ok (f u (bankValue .x s) (bankValue .s s)) (advAll s)) := by
  unfold processUnit
  cases hi : s.initDone with
  | false => exact .inl ⟨rfl, by simp⟩
  | true =>
    cases hu : unitOperand data with
    | none => exact .inr (.inl ⟨rfl, unitOperand_eq_none.mp hu, by simp⟩)
    | some u => exact .inr (.inr ⟨rfl, u, unitOperand_eq_some.mp hu, by simp⟩)

/-- Everything INIT can do. -/
theorem execInit_cases (s : State) :
    (s.keyStable = true ∧ validK s.keyPort = true ∧
      execInit s = .next (respond .ok 0 (loadKey s.keyPort s))) ∨
    (s.keyStable = true ∧ validK s.keyPort = false ∧ execInit s = .next (raise .configError s)) ∨
    (s.keyStable = false ∧ execInit s = .next (respond .ok 0 (loadUnspecifiedKey s))) ∨
    (s.keyStable = false ∧ execInit s = .next (raise .configError s)) := by
  unfold execInit
  cases s.keyStable <;> cases validK s.keyPort <;> cases Config.unstableKeyAccepted s.freeIndex <;> simp

/-! ## Observation -/

/-- Everything an observation read can do. -/
theorem readObservation_cases (port : ObsPort) (s : State) :
    (∃ v, observed port s = some v ∧
      readObservation port s = .next { s with outputs := s.outputs ++ [v] }) ∨
    (observed port s = none ∧ readObservation port s = .fault (.obsNoValue port)) := by
  unfold readObservation
  cases observed port s <;> simp

end Sys2Proof.Machine
end

