-- ==== Sys2Proof/Laws/Network.lean ====
section
/-! SUPPORT. The bits of a swapped value. -/

namespace Sys2Proof.Machine

/-- Every bit of a swapped value (00_scope.md R11). -/
theorem swapBits_getLsbD (v : CodeUnit) (a b i : Fin 5) :
    (swapBits v a b).getLsbD i.val =
      if i = a then v.getLsbD b.val else if i = b then v.getLsbD a.val else v.getLsbD i.val :=
  assembleBits_getLsbD _ i

/-- Swapping the same two bits again gives the value back. -/
theorem swapBits_swapBits (v : CodeUnit) (a b : Fin 5) : swapBits (swapBits v a b) a b = v := by
  refine codeUnit_ext fun i => ?_
  simp only [swapBits_getLsbD]
  by_cases ha : i = a
  · subst ha
    by_cases hb : b = i <;> simp [hb]
  · by_cases hb : i = b
    · subst hb
      simp [ha]
    · simp [ha, hb]

end Sys2Proof.Machine
end

