-- ==== Sys2Proof/Laws/PerInstr.lean ====
section
/-! SUPPORT. A fact about every command, one lemma per constructor. -/

namespace Sys2Proof.Laws

/-- The mask of a command's row of opcode_table.json (30_encoding.md R58). -/
def rowMask : Instr → CommandWord
  | .init => 0xFFFF
  | .enc _ => 0xFF00
  | .dec _ => 0xFF00

/-- The match of a command's row of opcode_table.json (30_encoding.md R58). -/
def rowMatch : Instr → CommandWord
  | .init => 0x0000
  | .enc _ => 0x4000
  | .dec _ => 0x8000

/-- The word of a command lies in its row of the opcode table, and in no other row. -/
def TableRow.Statement (i : Instr) : Prop :=
  encode i &&& rowMask i = rowMatch i ∧
  ∀ j : Instr, encode i &&& rowMask j = rowMatch j → rowMatch j = rowMatch i

theorem TableRow.init : TableRow.Statement .init :=
  ⟨rfl, fun j h => by
    cases j with
    | init => rfl
    | enc _ => exact absurd h (by decide : (0x0000 : BitVec 16) &&& 0xFF00 ≠ 0x4000)
    | dec _ => exact absurd h (by decide : (0x0000 : BitVec 16) &&& 0xFF00 ≠ 0x8000)⟩

theorem TableRow.enc (data : DataField) : TableRow.Statement (.enc data) := by
  have key : ∀ d : BitVec 8,
      (0x4000 ||| d.setWidth 16 : BitVec 16) &&& 0xFF00 = 0x4000 ∧
      (0x4000 ||| d.setWidth 16 : BitVec 16) &&& 0xFFFF ≠ 0 := by decide +kernel
  refine ⟨(key data).1, fun j h => ?_⟩
  cases j with
  | init => exact absurd h (key data).2
  | enc _ => rfl
  | dec _ => exact absurd ((key data).1.symm.trans h) (by decide : (0x4000 : BitVec 16) ≠ 0x8000)

theorem TableRow.dec (data : DataField) : TableRow.Statement (.dec data) := by
  have key : ∀ d : BitVec 8,
      (0x8000 ||| d.setWidth 16 : BitVec 16) &&& 0xFF00 = 0x8000 ∧
      (0x8000 ||| d.setWidth 16 : BitVec 16) &&& 0xFFFF ≠ 0 := by decide +kernel
  refine ⟨(key data).1, fun j h => ?_⟩
  cases j with
  | init => exact absurd h (key data).2
  | enc _ => exact absurd ((key data).1.symm.trans h) (by decide : (0x8000 : BitVec 16) ≠ 0x4000)
  | dec _ => rfl

end Sys2Proof.Laws
end

