-- ==== Sys2Proof/Laws/Step.lean ====
section
/-! SUPPORT. What a step can do, input by input, and what a word on the command port can do. -/

namespace Sys2Proof.Machine

/-- A step with an input pending is the acceptance of the oldest one. -/
theorem step_cons {s : State} {input : HostInput} {rest : List HostInput} (h : s.inputs = input :: rest) :
    step s = acceptInput input (takeInput rest s) := by
  simp only [step, serve, h]

/-- Every command answers a next state. -/
theorem exec_answers (i : Instr) (s : State) : ∃ t, exec i s = .next t := by
  cases i with
  | init =>
    rcases execInit_cases s with ⟨-, -, h⟩ | ⟨-, -, h⟩ | ⟨-, h⟩ | ⟨-, h⟩ <;> exact ⟨_, h⟩
  | enc data => exact ⟨_, rfl⟩
  | dec data => exact ⟨_, rfl⟩

/-- What any command can do when it answers: raise an error; as INIT, load the key material on K or, with K not stable,
an unspecified key store; as ENC or DEC, respond some unit and advance every wheel. -/
theorem exec_next_cases {i : Instr} {s t : State} (h : exec i s = .next t) :
    (∃ e, t = raise e s) ∨
    (i = .init ∧
      ((s.keyStable = true ∧ validK s.keyPort = true ∧ t = respond .ok 0 (loadKey s.keyPort s)) ∨
        (s.keyStable = false ∧ t = respond .ok 0 (loadUnspecifiedKey s)))) ∨
    (i ≠ .init ∧ s.initDone = true ∧ ∃ c : CodeUnit, t = respond .ok c (advAll s)) := by
  have unit : ∀ (f : CodeUnit → CodeUnit → CodeUnit → CodeUnit) (data : DataField), t = processUnit f data s →
      (∃ e, t = raise e s) ∨ (s.initDone = true ∧ ∃ c : CodeUnit, t = respond .ok c (advAll s)) := by
    intro f data ht
    rcases processUnit_cases f data s with ⟨-, hp⟩ | ⟨-, -, hp⟩ | ⟨hi, u, -, hp⟩
    · exact .inl ⟨_, ht.trans hp⟩
    · exact .inl ⟨_, ht.trans hp⟩
    · exact .inr ⟨hi, _, ht.trans hp⟩
  cases i with
  | init =>
    have h' : execInit s = .next t := h
    rcases execInit_cases s with ⟨hs, hv, he⟩ | ⟨-, -, he⟩ | ⟨hs, he⟩ | ⟨-, he⟩ <;> rw [he] at h' <;> cases h'
    · exact .inr (.inl ⟨rfl, .inl ⟨hs, hv, rfl⟩⟩)
    · exact .inl ⟨_, rfl⟩
    · exact .inr (.inl ⟨rfl, .inr ⟨hs, rfl⟩⟩)
    · exact .inl ⟨_, rfl⟩
  | enc data =>
    have h' : Host.Outcome.next (processUnit encryptUnit data s) = .next t := h
    cases h'
    rcases unit encryptUnit data rfl with he | ho
    · exact .inl he
    · exact .inr (.inr ⟨by simp, ho⟩)
  | dec data =>
    have h' : Host.Outcome.next (processUnit decryptUnit data s) = .next t := h
    cases h'
    rcases unit decryptUnit data rfl with he | ho
    · exact .inl he
    · exact .inr (.inr ⟨by simp, ho⟩)

/-- Everything a command word can do: it decodes and its command answers, or it is illegal and raises. -/
theorem issueCommand_cases (cw : CommandWord) (s : State) :
    (∃ i t, decode cw = .instr i ∧ exec i s = .next t ∧ issueCommand cw s = .next t) ∨
    (∃ why, decode cw = .illegal why ∧ issueCommand cw s = .next (raise .illegalCommand s)) := by
  unfold issueCommand
  cases decode cw with
  | instr i =>
    obtain ⟨t, ht⟩ := exec_answers i s
    exact .inl ⟨i, t, rfl, ht, ht⟩
  | illegal why => exact .inr ⟨why, rfl, rfl⟩

/-- What any command word can do when it answers. -/
theorem issueCommand_next_cases {cw : CommandWord} {s t : State} (h : issueCommand cw s = .next t) :
    (∃ e, t = raise e s) ∨
    (decode cw = .instr .init ∧
      ((s.keyStable = true ∧ validK s.keyPort = true ∧ t = respond .ok 0 (loadKey s.keyPort s)) ∨
        (s.keyStable = false ∧ t = respond .ok 0 (loadUnspecifiedKey s)))) ∨
    (decode cw ≠ .instr .init ∧ s.initDone = true ∧ ∃ c : CodeUnit, t = respond .ok c (advAll s)) := by
  rcases issueCommand_cases cw s with ⟨i, t', hd, he, hi⟩ | ⟨why, -, hi⟩
  · rw [hi] at h
    cases h
    rcases exec_next_cases he with hr | ⟨rfl, hr⟩ | ⟨hn, hr⟩
    · exact .inl hr
    · exact .inr (.inl ⟨hd, hr⟩)
    · refine .inr (.inr ⟨fun h0 => hn ?_, hr⟩)
      rw [h0] at hd
      exact (Decoded.instr.inj hd).symm
  · rw [hi] at h
    cases h
    exact .inl ⟨_, rfl⟩

/-- A command word always answers a next state. -/
theorem issueCommand_answers (cw : CommandWord) (s : State) : ∃ t, issueCommand cw s = .next t := by
  rcases issueCommand_cases cw s with ⟨_, t, -, -, h⟩ | ⟨_, -, h⟩ <;> exact ⟨_, h⟩

/-- A command word during which K changes does what the word does with K not stable, then K holds the new value. -/
theorem issueWhileKeyChanges_eq {cw : CommandWord} {k : KeyMaterial} {s t : State}
    (h : issueCommand cw (setKeyStable false s) = .next t) :
    issueWhileKeyChanges cw k s = .next (driveKeyPort k t) := by
  simp only [issueWhileKeyChanges, h]

/-- The validity of key material, as the invariant of 10_state.md R25 and R26 needs it. -/
theorem validK_eq_true {k : KeyMaterial} :
    validK k = true ↔
      k.lengths.toList.Perm Config.lset ∧ ∀ w, (k.indicators.get w).toNat < (k.lengths.get w).toNat := by
  simp [validK, lengthsValid, indicatorsValid, List.isPerm_iff]

/-- `withFetchWord` puts one command word first and changes nothing else. -/
theorem withFetchWord_inputs (s : State) (nbits w : Nat) :
    (s.withFetchWord nbits w).inputs = .command (BitVec.ofNat 16 (w % 2 ^ nbits)) :: s.inputs := rfl

end Sys2Proof.Machine
end

