-- ==== Sys2Proof/Laws/Run.lean ====
section
/-! SUPPORT. Runs of several steps. -/

namespace Sys2Proof.Machine

/-- A run of no step stays where it is. -/
theorem run_zero (s : State) : core.run 0 s = .next s := rfl

/-- A run whose first step answers goes on from there. -/
theorem run_succ {n : Nat} {s t : State} (h : step s = .next t) : core.run (n + 1) s = core.run n t := by
  have h' : core.step s = .next t := h
  have unfolded : ∀ (M : Host.Core) (k : Nat) (a b : M.State), M.step a = .next b → M.run (k + 1) a = M.run k b := by
    intro M k a b hab
    simp only [Host.Core.run, hab]
  exact unfolded core n s t h'

end Sys2Proof.Machine
end

