-- ==== Sys2Proof/Tests/Slice0.lean ====
section
/-! SUPPORT. Small tests, every expected value from 95_test_vectors.md or from a rule's own example; and for every
statement with hypotheses a concrete state and operands that meet them (theorems witness_…). -/

open Sys2Proof Sys2Proof.Machine

namespace Sys2Proof.Tests

/-! ## Key material of 95_test_vectors.md section 0 -/

/-- K_A. -/
def keyA : KeyMaterial where
  lengths := #v[73, 71, 69, 67, 65, 64, 61, 59, 53, 47]
  patterns := #v[0xeddbb76eddbb76eddb, 0x489122448912244891, 0x1dbb76eddbb76eddbb, 0x4081020408102040,
    0x4891224489122448, 0x2244891224489122, 0x40810204081020, 0x3b76eddbb76eddb, 0x2448912244891, 0x6ddbb76eddbb]
  indicators := #v[0, 1, 2, 3, 4, 5, 6, 7, 8, 9]

/-- K_W. -/
def keyW : KeyMaterial := { keyA with indicators := #v[72, 70, 68, 66, 64, 63, 60, 58, 52, 46] }

/-- K_Z. -/
def keyZ : KeyMaterial := { keyA with patterns := Vector.replicate 10 0 }

/-- K_DUP. -/
def keyDup : KeyMaterial := { keyA with lengths := #v[73, 71, 69, 67, 65, 64, 61, 59, 53, 73] }

/-- K_OUT. -/
def keyOut : KeyMaterial := { keyA with lengths := #v[72, 71, 69, 67, 65, 64, 61, 59, 53, 47] }

/-- K_IND. -/
def keyInd : KeyMaterial := { keyA with indicators := #v[0, 1, 2, 3, 4, 5, 6, 7, 8, 47] }

/-- The block with a key loaded and every position moved on by `n`. -/
def loaded (k : KeyMaterial) (n : Nat) : State :=
  advAll^[n] (loadKey k State.reset)

/-- The block as it is when INIT executes, with `k` on port K. -/
def withKey (k : KeyMaterial) : State := { State.reset with keyPort := k }

/-- A state of the component level, with the lengths, patterns and zero indicators of V-L1-5. -/
def shortWheels : State :=
  loadKey
    { lengths := #v[3, 5, 3, 5, 3, 3, 5, 3, 5, 3]
      patterns := #v[0b001, 0b01011, 0b110, 0b11000, 0b010, 0, 0, 0, 0, 0]
      indicators := Vector.replicate 10 0 } State.reset

/-! ## Running -/

/-- The responses a stream of inputs is given, by running it; none where it stops. -/
def outputsOf (k : Nat) (s : State) : Option (List HostOutput) :=
  match core.run k s with
  | .next t => some t.outputs
  | .fault _ => none
  | .refused _ => none

/-- The positions and INIT_DONE after one step on one input. -/
def blockAfter (input : HostInput) (s : State) : Option (List Nat × Bool) :=
  match step { s with inputs := [input] } with
  | .next t => some (t.pos.toList.map (·.toNat), t.initDone)
  | .fault _ => none
  | .refused _ => none

/-- What one step on one input adds to what the host has received. -/
def answerTo (input : HostInput) (s : State) : Option (List HostOutput) :=
  outputsOf 1 { s with inputs := [input] }

/-! ## Decoding: words written out bit by bit (30_encoding.md R53; 95_test_vectors.md 2.7) -/

theorem test_decode_init : decode 0b0000000000000000 = .instr .init := by decide
theorem test_decode_enc : decode 0b0100000000011111 = .instr (.enc 31) := by decide
theorem test_decode_enc_out_of_range : decode 0b0100000011111111 = .instr (.enc 255) := by decide
theorem test_decode_dec : decode 0b1000000000000101 = .instr (.dec 5) := by decide
theorem test_decode_init_data : decode 0x00FF = .illegal .initData := by decide
theorem test_decode_reserved_op : decode 0xC01F = .illegal .reservedOp := by decide
theorem test_decode_reserved_bits : decode 0x4105 = .illegal .reservedBits ∧ decode 0xBF00 = .illegal .reservedBits := by
  decide
theorem test_table_word : decodeTableWord 16 0x8005 = some (.dec 5) ∧ decodeTableWord 16 0x0100 = none := by decide

/-! ## Well-formedness: what the assembler refuses (30_encoding.md R61) -/

theorem test_enc_32_ill_formed : (Instr.enc 32).wellFormed = false := by decide
theorem test_dec_255_ill_formed : (Instr.dec 255).wellFormed = false := by decide
theorem test_enc_31_well_formed : (Instr.enc 31).wellFormed = true := by decide

/-! ## The network (95_test_vectors.md 2.4, 2.5; R106, R127) -/

theorem test_stage_row_17 :
    sw4 17 16 = 17 ∧ sw3 17 8 = 18 ∧ sw2 17 4 = 17 ∧ sw1 17 2 = 17 ∧ sw0 17 1 = 9 := by decide
theorem test_stage_row_10 :
    sw4 10 16 = 10 ∧ sw3 10 8 = 9 ∧ sw2 10 4 = 12 ∧ sw1 10 2 = 6 ∧ sw0 10 1 = 18 := by decide
theorem test_stage_gate_clear : sw4 1 15 = 1 := by decide
theorem test_fwd_vectors : fwd 1 31 = 8 ∧ fwd 22 31 = 19 ∧ fwd 1 24 = 16 ∧ fwd 5 15 = 18 ∧ fwd 9 27 = 12 := by decide
theorem test_inv_vectors : inv 1 31 = 2 ∧ inv 22 31 = 28 ∧ inv 1 24 = 2 ∧ inv 5 15 = 10 ∧ inv 9 27 = 3 := by decide
theorem test_fwd_twice_is_no_inverse : fwd (fwd 1 31) 31 = 4 ∧ fwd (fwd 22 31) 31 = 25 := by decide +kernel

/-! ## Datapaths (95_test_vectors.md 2.6) -/

theorem test_encrypt_vectors : encryptUnit 25 7 28 = 15 ∧ encryptUnit 17 1 5 = 8 ∧ encryptUnit 2 9 14 = 13 := by decide
theorem test_decrypt_vectors : decryptUnit 15 7 28 = 25 ∧ decryptUnit 8 1 5 = 17 ∧ decryptUnit 13 9 14 = 2 := by decide

/-! ## The combiner and the advance (95_test_vectors.md 2.1, 2.3, V-L1-5) -/

theorem test_bank_values_start : bankValue .x (loaded keyA 0) = 1 ∧ bankValue .s (loaded keyA 0) = 5 := by decide
theorem test_bank_values_after_three : bankValue .x (loaded keyA 3) = 15 ∧ bankValue .s (loaded keyA 3) = 29 := by
  decide
theorem test_bank_values_last_positions : bankValue .x (loaded keyW 0) = 6 ∧ bankValue .s (loaded keyW 0) = 16 := by
  decide
theorem test_every_wheel_wraps : (loaded keyW 1).pos.toList = [0, 0, 0, 0, 0, 0, 0, 0, 0, 0] := by decide
theorem test_short_bank_values :
    bankValue .x shortWheels = 3 ∧ bankValue .x ((advBank .x)^[1] shortWheels) = 22 ∧
    bankValue .x ((advBank .x)^[4] shortWheels) = 28 ∧ bankValue .x ((advBank .x)^[15] shortWheels) = 3 := by decide

/-! ## INIT (95_test_vectors.md 2.2) -/

theorem test_init_loads :
    blockAfter (.command 0x0000) (withKey keyA) = some ([0, 1, 2, 3, 4, 5, 6, 7, 8, 9], true) := by decide
theorem test_init_rejects_indicator :
    answerTo (.command 0x0000) (withKey keyInd) = some [.response 0b01000000] ∧
    blockAfter (.command 0x0000) { loaded keyA 3 with keyPort := keyInd } =
      some ([3, 4, 5, 6, 7, 8, 9, 10, 11, 12], true) := by decide

/-! ## ENC and DEC (95_test_vectors.md P1, P4, 2.7) -/

theorem test_enc_31 :
    answerTo (.command 0x401F) (loaded keyA 1) = some [.response 13] ∧
    blockAfter (.command 0x401F) (loaded keyA 1) = some ([2, 3, 4, 5, 6, 7, 8, 9, 10, 11], true) := by decide
theorem test_enc_out_of_range :
    answerTo (.command 0x4020) (loaded keyA 0) = some [.response 0b00100000] ∧
    answerTo (.command 0x4020) State.reset = some [.response 0b10000000] ∧
    blockAfter (.command 0x4020) (loaded keyA 0) = some ([0, 1, 2, 3, 4, 5, 6, 7, 8, 9], true) := by decide
theorem test_dec_after_wrap :
    answerTo (.command 0x800C) (loaded keyW 1) = some [.response 31] ∧
    blockAfter (.command 0x800C) (loaded keyW 1) = some ([1, 1, 1, 1, 1, 1, 1, 1, 1, 1], true) := by decide
theorem test_dec_out_of_range :
    answerTo (.command 0x80A0) (loaded keyA 0) = some [.response 0b00100000] ∧
    answerTo (.command 0x8005) State.reset = some [.response 0b10000000] := by decide

/-! ## The ports -/

theorem test_illegal_word_answered : answerTo (.command 0x4105) State.reset = some [.response 0b01100000] := by decide
theorem test_observe_before_init : answerTo (.observe .x) State.reset = none := by decide
theorem test_observe_s : answerTo (.observe .s) (loaded keyA 1) = some [.obsS 20] := by decide
theorem test_fetch_word_runs :
    outputsOf 1 ((loaded keyA 1).withFetchWord 16 0x401F) = some [.response 13] := by decide
theorem test_reset_waits : step State.reset = .next State.reset := rfl

/-! ## The assembler (30_encoding.md R61; 95_test_vectors.md P1) -/

theorem test_assemble_encs : assembleLine (.encs [0, 31, 21, 10]) = some [0x4000, 0x401F, 0x4015, 0x400A] := by decide
theorem test_assemble_single_units : assembleLine (.enc 31) = some [0x401F] ∧ assembleLine (.dec 8) = some [0x8008] := by
  decide
theorem test_assembler_refuses_32 : assembleLine (.enc 32) = none ∧ assembleLine (.encs []) = none := by decide
theorem test_parse_line :
    parseLine ['E', 'N', 'C', ' ', '0', 'x', '1', 'f', ' ', ';', ' ', 'u'] = .line (.enc 31) ∧
    parseLine ['D', 'E', 'C', 'S', ' ', '8', ',', ' ', '0', 'b', '1', '1', '0'] = .line (.decs [8, 6]) ∧
    parseLine [' ', ';', 'x'] = .blank ∧ parseLine ['I', 'N', 'I', 'T', ' ', '1'] = .refused := by decide
theorem test_response_text :
    responseText (.instr (.enc 31)) 13 = some "OK 13" ∧ responseText (.instr .init) 0 = some "OK" ∧
    responseText (.instr (.enc 32)) 0b00100000 = some "DOMAIN_ERROR" := by decide

/-! ## Witnesses: the hypotheses of the statements can be met, each clause at a boundary of its range -/

/-- A state with one input pending. -/
def onPort (input : HostInput) (s : State) : State := { s with inputs := [input] }

theorem loaded_ready : EngineReady (loaded keyA 1) := by
  refine ⟨rfl, fun _ => ⟨?_, ?_⟩⟩ <;> decide

theorem loaded_in_range : WheelsInRange (loaded keyA 1) := by unfold WheelsInRange; decide

theorem last_positions_in_range : WheelsInRange (loaded keyW 0) := by unfold WheelsInRange; decide

theorem short_in_range : WheelsInRange shortWheels := by unfold WheelsInRange; decide

theorem witness_DecodeEncodeAgree :
    decode 0x0000 = .instr .init ∧ decode 0x40FF = .instr (.enc 0xFF) ∧ decode 0x8000 = .instr (.dec 0) := by decide

theorem witness_IllegalSetsAreAnswered :
    (onPort (.command 0xC0FF) State.reset).inputs = .command 0xC0FF :: [] ∧
    decode 0xC0FF = .illegal .reservedOp ∧ decode 0x0001 = .illegal .initData ∧
    decode 0x0100 = .illegal .reservedBits := by decide

theorem witness_AssemblerExpandsStreams :
    (31 : Nat) ≤ 31 ∧ 31 < (32 : Nat) ∧
    ([0, 31] : List Nat) ≠ [] ∧ (∀ u ∈ ([0, 31] : List Nat), u ≤ 31) ∧ ∃ u ∈ ([31, 32] : List Nat), 31 < u := by decide

theorem witness_StatusFollowsPriority :
    (onPort (.command 0x401F) (loaded keyA 1)).inputs = .command 0x401F :: [] := rfl

theorem witness_ResponseDataOnlyForUnits :
    (∃ t, (onPort (.command 0x401F) (loaded keyA 1)).inputs = .command 0x401F :: [] ∧
      step (onPort (.command 0x401F) (loaded keyA 1)) = .next t) ∧
    ∃ t, (onPort (.commandKeyChanging 0x401F keyW) (loaded keyA 1)).inputs = .commandKeyChanging 0x401F keyW :: [] ∧
      step (onPort (.commandKeyChanging 0x401F keyW) (loaded keyA 1)) = .next t :=
  ⟨⟨_, rfl, rfl⟩, ⟨_, rfl, rfl⟩⟩

theorem witness_IllegalWordsRaiseIllegalCommand :
    (onPort (.command 0x0100) State.reset).inputs = .command 0x0100 :: [] ∧
    (0x0100 : CommandWord).extractLsb' 8 6 ≠ 0 ∧ (0xC000 : CommandWord).extractLsb' 14 2 = 3 ∧
    (0x0001 : CommandWord).extractLsb' 14 2 = 0 ∧ (0x0001 : CommandWord).extractLsb' 0 8 ≠ 0 := by decide

theorem witness_UnitBeforeInitIsNotInitialised : State.reset.initDone = false := rfl

theorem witness_LargeUnitIsDomainError :
    (loaded keyA 1).initDone = true ∧ 31 < (32 : DataField).toNat ∧ 31 < (255 : DataField).toNat := by decide

theorem witness_BadKeyIsConfigError :
    ((withKey keyOut).keyStable = true ∧ (withKey keyOut).keyPort.lengths.get 0 ∉ Config.lset) ∧
    ((withKey keyDup).keyStable = true ∧ (0 : WheelNo) ≠ 9 ∧
      (withKey keyDup).keyPort.lengths.get 0 = (withKey keyDup).keyPort.lengths.get 9) ∧
    ((withKey keyInd).keyStable = true ∧
      ((withKey keyInd).keyPort.lengths.get 9).toNat ≤ ((withKey keyInd).keyPort.indicators.get 9).toNat) := by decide

theorem witness_ErrorsChangeNothing :
    ∃ (t : State) (rw : ResponseWord),
      (onPort (.command 0x4020) (loaded keyA 1)).inputs = .command 0x4020 :: [] ∧
      step (onPort (.command 0x4020) (loaded keyA 1)) = .next t ∧
      t.outputs = (onPort (.command 0x4020) (loaded keyA 1)).outputs ++ [.response rw] ∧ rw.extractLsb' 5 3 ≠ 0 :=
  ⟨_, 0b00100000, rfl, rfl, rfl, by decide⟩

theorem witness_ErrorsAreNotSticky :
    ∃ (b : State) (e : ResponseWord), KeyStoreGood (loaded keyA 1) ∧
      step { loaded keyA 1 with inputs := [.command 0x4020] } = .next b ∧
      b.outputs = (loaded keyA 1).outputs ++ [.response e] ∧ e.extractLsb' 5 3 ≠ 0 :=
  ⟨_, 0b00100000, loaded_ready.2, rfl, rfl, by decide⟩

theorem witness_InitLoadsKeyMaterial :
    (withKey keyW).keyStable = true ∧
    (Multiset.ofList (withKey keyW).keyPort.lengths.toList = Multiset.ofList Config.lset ∧
      ∀ w, ((withKey keyW).keyPort.indicators.get w).toNat < ((withKey keyW).keyPort.lengths.get w).toNat) :=
  ⟨rfl, Multiset.coe_eq_coe.mpr (List.isPerm_iff.mp (by decide)), by decide⟩

theorem witness_InitLoadsKeyMaterial_rejected :
    (withKey keyInd).keyStable = true ∧
    ¬(Multiset.ofList (withKey keyInd).keyPort.lengths.toList = Multiset.ofList Config.lset ∧
      ∀ w, ((withKey keyInd).keyPort.indicators.get w).toNat < ((withKey keyInd).keyPort.lengths.get w).toNat) :=
  ⟨rfl, fun h => absurd (h.2 9) (by decide)⟩

theorem witness_InitWithChangingKey : ({ withKey keyA with keyStable := false } : State).keyStable = false := rfl

theorem witness_InitFrame : ∃ t, exec .init (withKey keyA) = .next t := ⟨_, rfl⟩

theorem witness_KeyChangeOutsideInitIsHarmless :
    KeyStoreGood (loaded keyA 1) ∧ (0x0001 : CommandWord) ≠ 0x0000 ∧ (0x401F : CommandWord) ≠ 0x0000 :=
  ⟨loaded_ready.2, by decide, by decide⟩

theorem witness_WheelAdvancesModuloLength :
    ((loaded keyW 0).kl.get 9 ≠ 0 ∧ ((loaded keyW 0).pos.get 9).toNat + 1 = ((loaded keyW 0).kl.get 9).toNat) ∧
    ((loaded keyA 1).kl.get 9 ≠ 0 ∧ ((loaded keyA 1).pos.get 9).toNat + 1 < ((loaded keyA 1).kl.get 9).toNat) ∧
    (0 : WheelNo) ≠ 9 := by decide

theorem witness_BanksAdvanceInLockStep :
    (loaded keyA 1).kl.get 4 ≠ 0 ∧ (4 : WheelNo).val < 5 ∧ (loaded keyA 1).kl.get 5 ≠ 0 ∧ 5 ≤ (5 : WheelNo).val := by
  decide

theorem witness_BankValueCombinesCurrentBits : WheelsInRange (loaded keyW 0) := last_positions_in_range

theorem witness_PositionsCountAdvances : WheelsInRange (loaded keyA 1) := loaded_in_range

theorem witness_AdvancePeriodIsLcm : WheelsInRange shortWheels := short_in_range

theorem witness_EnginePeriodOfEveryKey : EngineReady (loaded keyA 1) := loaded_ready

theorem witness_ForwardNetworkPermutesBits :
    (14 : CodeUnit).toNat < (31 : CodeUnit).toNat ∧ (15 : CodeUnit).toNat < (30 : CodeUnit).toNat := by decide

theorem witness_EncEncryptsOneUnit :
    State.reset.initDone = false ∧ (loaded keyA 1).initDone = true ∧ 31 < (32 : DataField).toNat ∧
    (31 : DataField).toNat ≤ 31 ∧ (loaded keyA 1).kl.get 9 ≠ 0 := by decide

theorem witness_DecDecryptsOneUnit :
    State.reset.initDone = false ∧ (loaded keyW 0).initDone = true ∧ 31 < (255 : DataField).toNat ∧
    (0 : DataField).toNat ≤ 31 ∧ (loaded keyW 0).kl.get 0 ≠ 0 := by decide

theorem witness_UnitCommandFrame :
    (∃ t, exec (.enc 31) (loaded keyA 1) = .next t) ∧ ∃ t, exec (.dec 32) (loaded keyA 1) = .next t :=
  ⟨⟨_, rfl⟩, ⟨_, rfl⟩⟩

theorem witness_BitsBeyondLengthAreUnobservable :
    let kp' := (loaded keyA 1).kp.set 9 ((loaded keyA 1).kp.get 9 ||| (1 <<< 47))
    KeyStoreGood (loaded keyA 1) ∧ kp'.get 9 ≠ (loaded keyA 1).kp.get 9 ∧
    ∀ w : WheelNo, ∀ j < ((loaded keyA 1).kl.get w).toNat,
      (kp'.get w).getLsbD j = ((loaded keyA 1).kp.get w).getLsbD j :=
  ⟨loaded_ready.2, by decide +kernel, by decide +kernel⟩

theorem witness_IdentityWithoutPermutation :
    (loaded keyZ 0).initDone = true ∧ bankValue .s (loaded keyZ 0) = 0 ∧ bankValue .x (loaded keyZ 0) = 0 := by decide

theorem witness_DecUndoesEnc :
    SameBlock (loaded keyA 1) { loaded keyA 1 with freeIndex := 7 } ∧ WheelsInRange (loaded keyA 1) ∧
    (loaded keyA 1).initDone = true :=
  ⟨⟨rfl, rfl, rfl, rfl⟩, loaded_in_range, rfl⟩

theorem witness_UnitStreamCompletes : EngineReady (loaded keyA 1) := loaded_ready

theorem witness_StreamOutputDependsOnItsUnit :
    EngineReady (loaded keyA 1) ∧ ([3, 5] : List CodeUnit).length = ([3, 31] : List CodeUnit).length :=
  ⟨loaded_ready, rfl⟩

theorem witness_StreamRoundTrip :
    validK keyA = true ∧
    ([8, 255, 6] : List DataField).filterMap legalUnit =
      ([8, 0b00100000, 6] : List ResponseWord).filterMap answeredUnit := by decide

theorem witness_StepRunsDecodedCommand :
    ((onPort (.command 0x8005) (loaded keyA 1)).inputs = .command 0x8005 :: [] ∧ decode 0x8005 = .instr (.dec 5)) ∧
    (onPort (.commandKeyChanging 0x0000 keyW) (withKey keyA)).inputs = .commandKeyChanging 0x0000 keyW :: [] ∧
    decode 0x0000 = .instr .init := by decide

theorem witness_StepKeepsInvariant :
    Inv (onPort (.command 0x401F) (loaded keyA 1)) ∧ ∃ t, step (onPort (.command 0x401F) (loaded keyA 1)) = .next t :=
  ⟨⟨loaded_ready.2, by simp [KeyWindowRespected, onPort, HostInput.keepsKeyStable]⟩, _, rfl⟩

theorem witness_ResetAcceptsCommands :
    (0x4000 : CommandWord).extractLsb' 8 8 = 0x40 ∧ (0x80FF : CommandWord).extractLsb' 8 8 = 0x80 ∧
    decode 0xFFFF = .illegal .reservedBits ∧ validK keyW = true ∧ validK keyDup = false := by decide

theorem witness_RstClearsInitDone :
    (onPort .reset (loaded keyA 1)).inputs = .reset :: [] ∧
    (onPort (.commandAborted 0x401F) (loaded keyA 1)).inputs = .commandAborted 0x401F :: [] :=
  ⟨rfl, rfl⟩

theorem witness_IdleBlockHoldsState : (loaded keyA 1).inputs = [] := rfl

theorem witness_InputsAreTakenInOrder : ∃ t, step (onPort (.observe .s) (loaded keyA 1)) = .next t := ⟨_, rfl⟩

theorem witness_ObservationOutputs :
    (loaded keyA 1).initDone = true ∧ WheelsInRange (loaded keyA 1) ∧ State.reset.initDone = false :=
  ⟨rfl, loaded_in_range, rfl⟩

theorem witness_OnlyTheseWriteTheBlock :
    ∃ t, step (onPort (.command 0x0000) (withKey keyA)) = .next t ∧ t.kl ≠ (withKey keyA).kl ∧
      t.pos ≠ (withKey keyA).pos ∧ (withKey keyA).initDone = false ∧ t.initDone = true :=
  ⟨_, rfl, by decide, by decide, rfl, rfl⟩

theorem witness_OnlyTheseWriteTheBlock_cleared :
    ∃ t, step (onPort .reset (loaded keyA 1)) = .next t ∧ (loaded keyA 1).initDone = true ∧ t.initDone = false :=
  ⟨_, rfl, rfl, rfl⟩

theorem witness_BlocksShareNothing :
    ∃ after, stepBlock 1 [State.reset, onPort (.command 0x0000) (withKey keyA)] = .next after :=
  ⟨_, rfl⟩

end Sys2Proof.Tests
end

-- Proofs of the statements of 10_state.md.
section
/-! PROOF. The numbering of the banks, the range of the key store, the positions after `n` advances, the period. -/

namespace Sys2Proof.Machine

/-! ## The wheels of a bank -/

/-- Member `i` of a bank is wheel `base + i`: no wheel number wraps (10_state.md R22). -/
theorem Bank.wheel_val (b : Bank) (i : Fin 5) : (b.wheel i).val = b.base + i.val := by
  refine Nat.mod_eq_of_lt ?_
  cases b <;> simp only [Bank.base] <;> omega

/-! ## Agreement on the block -/

/-- Every state agrees with itself on the block. -/
theorem SameBlock.refl (s : State) : SameBlock s s := ⟨rfl, rfl, rfl, rfl⟩

/-- A response is no part of the block. -/
theorem SameBlock.respond (st : Status) (d : CodeUnit) (s : State) : SameBlock s (respond st d s) :=
  ⟨rfl, rfl, rfl, rfl⟩

/-- The invariant of 10_state.md R25 and R26 speaks of the block only. -/
theorem KeyStoreGood.congr {s t : State} (h : SameBlock s t) (hs : KeyStoreGood s) : KeyStoreGood t := by
  obtain ⟨hpos, hkl, -, hinit⟩ := h
  rw [KeyStoreGood, ← hpos, ← hkl, ← hinit]
  exact hs

/-- A block that is not initialised meets the invariant of 10_state.md R25 and R26. -/
theorem KeyStoreGood.of_not_initDone {s : State} (h : s.initDone = false) : KeyStoreGood s :=
  fun hi => absurd (h.symm.trans hi) Bool.false_ne_true

/-- Loading valid key material establishes the invariant of 10_state.md R25 and R26. -/
theorem KeyStoreGood.loadKey {k : KeyMaterial} (h : validK k = true) (s : State) : KeyStoreGood (loadKey k s) := by
  obtain ⟨hperm, hind⟩ := validK_eq_true.mp h
  exact fun _ => ⟨hind, hperm⟩

/-- The advance leaves the lengths, the patterns and INIT_DONE. -/
theorem SameBlock.keyStore_of_advAll {s u t : State} (start : SameBlock s u) (same : SameBlock (advAll u) t) :
    s.kl = t.kl ∧ s.kp = t.kp ∧ s.initDone = t.initDone := by
  obtain ⟨-, hkl, hkp, hinit⟩ := start
  obtain ⟨-, hkl', hkp', hinit'⟩ := same
  rw [advAll_kl] at hkl'
  rw [advAll_kp] at hkp'
  rw [advAll_initDone] at hinit'
  exact ⟨hkl.trans hkl', hkp.trans hkp', hinit.trans hinit'⟩

/-! ## The range of the lengths -/

/-- Every candidate length is 1 to 73 (00_scope.md R6). -/
theorem lset_range : ∀ l ∈ Config.lset, 1 ≤ l.toNat ∧ l.toNat ≤ 73 := by decide

/-- An initialised block with a good key store is in the component range of 00_scope.md R7. -/
theorem WheelsInRange.of_engineReady {s : State} (h : EngineReady s) : WheelsInRange s := by
  obtain ⟨hinit, hgood⟩ := h
  obtain ⟨hpos, hperm⟩ := hgood hinit
  intro w
  have hmem : s.kl.get w ∈ Config.lset := hperm.mem_iff.mp (by simp [Vector.get_eq_getElem])
  exact ⟨(lset_range _ hmem).1, (lset_range _ hmem).2, hpos w⟩

/-- In the component range no wheel has length 0. -/
theorem WheelsInRange.kl_ne_zero {s : State} (h : WheelsInRange s) (w : WheelNo) : s.kl.get w ≠ 0 := by
  obtain ⟨hlow, -, -⟩ := h w
  intro h0
  simp [h0] at hlow

/-! ## Positions under the advance -/

/-- `ADV_ALL` moves every wheel that has a length by one, modulo that length (40_rotor_position_register.md
R70, R72). -/
theorem advAll_pos_get_toNat {s : State} {w : WheelNo} (h : s.kl.get w ≠ 0) :
    ((advAll s).pos.get w).toNat = ((s.pos.get w).toNat + 1) % (s.kl.get w).toNat := by
  rw [advAll_pos_get, advancedPosition_toNat h]

/-- The advance keeps the component range. -/
theorem WheelsInRange.advAll {s : State} (h : WheelsInRange s) : WheelsInRange (advAll s) := by
  intro w
  obtain ⟨hlow, hhigh, -⟩ := h w
  rw [advAll_kl, advAll_pos_get_toNat (h.kl_ne_zero w)]
  exact ⟨hlow, hhigh, Nat.mod_lt _ hlow⟩

/-- The advance keeps the invariant of 10_state.md R25 and R26. -/
theorem KeyStoreGood.advAll {s : State} (h : KeyStoreGood s) : KeyStoreGood (advAll s) := by
  intro hi
  rw [advAll_initDone] at hi
  have hrange : WheelsInRange (Machine.advAll s) := (WheelsInRange.of_engineReady ⟨hi, h⟩).advAll
  refine ⟨fun w => (hrange w).2.2, ?_⟩
  rw [advAll_kl]
  exact (h hi).2

/-- An engine that answers a unit command is an engine still. -/
theorem EngineReady.respond_advAll {s : State} (h : EngineReady s) (st : Status) (d : CodeUnit) :
    EngineReady (respond st d (advAll s)) := by
  obtain ⟨hinit, hgood⟩ := h
  exact ⟨by simp [hinit], hgood.advAll.congr (.respond st d _)⟩

/-- Moving by one and then by `n`, modulo a length, is moving by `n + 1`. -/
theorem succ_mod_add_mod (p n l : Nat) : ((p + 1) % l + n) % l = (p + (n + 1)) % l := by
  rw [Nat.mod_add_mod, Nat.add_right_comm, Nat.add_assoc]

/-- 10_state.md R34: `n` advances move every wheel by `n`, modulo its length. -/
theorem iterate_advAll_pos_get_toNat {s : State} (h : WheelsInRange s) (n : Nat) (w : WheelNo) :
    ((advAll^[n] s).pos.get w).toNat = ((s.pos.get w).toNat + n) % (s.kl.get w).toNat := by
  induction n generalizing s with
  | zero => exact (Nat.mod_eq_of_lt (h w).2.2).symm
  | succ n ih =>
    rw [Function.iterate_succ_apply, ih h.advAll, advAll_kl, advAll_pos_get_toNat (h.kl_ne_zero w), succ_mod_add_mod]

/-- Moving by `n` modulo `l` gives a remainder back exactly when `l` divides `n`. -/
theorem add_mod_eq_self_iff_dvd {p n l : Nat} (h : p < l) : (p + n) % l = p ↔ l ∣ n := by
  rw [← Nat.add_modEq_left_iff (a := p), Nat.ModEq, Nat.mod_eq_of_lt h]

/-- Ten wheels are back after `n` advances exactly when each of their lengths divides `n`. -/
theorem iterate_advAll_pos_eq_iff {s : State} (h : WheelsInRange s) (n : Nat) :
    (advAll^[n] s).pos = s.pos ↔ ∀ w, (s.kl.get w).toNat ∣ n := by
  calc (advAll^[n] s).pos = s.pos
      ↔ ∀ w, (advAll^[n] s).pos.get w = s.pos.get w := ⟨fun he w => by rw [he], positions_ext⟩
    _ ↔ ∀ w, (s.kl.get w).toNat ∣ n := forall_congr' fun w => by
        rw [← BitVec.toNat_inj, iterate_advAll_pos_get_toNat h, add_mod_eq_self_iff_dvd (h w).2.2]

/-! ## The period of an engine -/

/-- What the ten registers hold, as the members of the list of the lengths. -/
theorem forall_lengths_iff {kl : Vector WheelLength 10} {p : WheelLength → Prop} :
    (∀ w : WheelNo, p (kl.get w)) ↔ ∀ l ∈ kl.toList, p l := by
  constructor
  · intro h l hl
    obtain ⟨i, hi, rfl⟩ := Vector.getElem_of_mem (Vector.mem_toList_iff.mp hl)
    exact h ⟨i, hi⟩
  · exact fun h w => h _ (by simp [Vector.get_eq_getElem])

/-- The least common multiple of `LSET` is the period that 10_state.md R34 states. -/
theorem lset_lcm : (Config.lset.map BitVec.toNat).foldr Nat.lcm 1 = 893622318929520960 := by
  simp [Config.lset, Nat.lcm]

/-- A number that every member of a list divides is one that their least common multiple divides. -/
theorem foldr_lcm_dvd_iff (ls : List Nat) (n : Nat) : ls.foldr Nat.lcm 1 ∣ n ↔ ∀ l ∈ ls, l ∣ n := by
  induction ls with
  | nil => simp
  | cons l ls ih => simp [Nat.lcm_dvd_iff, ih]

/-- Every candidate length divides `n` exactly when the period of 10_state.md R34 does. -/
theorem lset_dvd_iff (n : Nat) : (∀ l ∈ Config.lset, l.toNat ∣ n) ↔ 893622318929520960 ∣ n := by
  rw [← lset_lcm, foldr_lcm_dvd_iff, List.forall_mem_map]

/-! ## Settled: numbering, reset, positions, period -/

/-- Settles O20: member `i` of a bank is wheel `base + i`. -/
theorem bankMembersAreNumberedInOrder : Obligations.BankMembersAreNumberedInOrder := by
  intro i
  simp [Bank.wheel_val, Bank.base]

/-- Settles O44: after reset the block is not initialised, and no input is pending. -/
theorem resetHasInvariant : Obligations.ResetHasInvariant :=
  ⟨.of_not_initDone rfl, fun _ hi => absurd hi List.not_mem_nil⟩

/-- Settles O24, by induction on the number of advances. -/
theorem positionsCountAdvances : Obligations.PositionsCountAdvances :=
  fun _ n w h => iterate_advAll_pos_get_toNat h n w

/-- Settles O26: the positions are back when every length divides `n`, and the lengths are those of `LSET` in some
order. -/
theorem enginePeriodOfEveryKey : Obligations.EnginePeriodOfEveryKey := by
  intro s n h
  have hperm : s.kl.toList.Perm Config.lset := (h.2 h.1).2
  calc (advAll^[n] s).pos = s.pos
      ↔ ∀ w, (s.kl.get w).toNat ∣ n := iterate_advAll_pos_eq_iff (.of_engineReady h) n
    _ ↔ ∀ l ∈ s.kl.toList, l.toNat ∣ n := forall_lengths_iff (p := fun l => l.toNat ∣ n)
    _ ↔ ∀ l ∈ Config.lset, l.toNat ∣ n := by simp only [hperm.mem_iff]
    _ ↔ 893622318929520960 ∣ n := lset_dvd_iff n

end Sys2Proof.Machine
end

section
/-! PROOF. What one step does to the block, over every input, and the invariant it keeps. -/

namespace Sys2Proof.Machine

/-! ## The words of INIT, ENC and DEC -/

/-- The three fields of a word as the digits of its value (30_encoding.md R53). -/
theorem fields_toNat (cw : CommandWord) :
    (opField cw).toNat = cw.toNat / 16384 % 4 ∧ (rsvField cw).toNat = cw.toNat / 256 % 64 ∧
    (dataField cw).toNat = cw.toNat % 256 := by
  simp [opField, rsvField, dataField, BitVec.extractLsb'_toNat, Nat.shiftRight_eq_div_pow]

/-- The fields of the word with OP = `op`, RSV = 0 and a DATA field (30_encoding.md R53). -/
theorem fields_of_word {op : Nat} (hop : op < 4) (data : DataField) :
    (opField (BitVec.ofNat 16 (16384 * op + data.toNat))).toNat = op ∧
    rsvField (BitVec.ofNat 16 (16384 * op + data.toNat)) = 0 ∧
    dataField (BitVec.ofNat 16 (16384 * op + data.toNat)) = data := by
  obtain ⟨hopField, hrsv, hdata⟩ := fields_toNat (BitVec.ofNat 16 (16384 * op + data.toNat))
  have hlt := data.isLt
  have hmod : (16384 * op + data.toNat) % 2 ^ 16 = 16384 * op + data.toNat := Nat.mod_eq_of_lt (by omega)
  rw [BitVec.toNat_ofNat, hmod] at hopField hrsv hdata
  refine ⟨by omega, BitVec.eq_of_toNat_eq (hrsv.trans ?_), BitVec.eq_of_toNat_eq (by omega)⟩
  change _ = 0
  omega

/-- The word of ENC decodes to ENC, with every DATA value (30_encoding.md R56, R58). -/
theorem decode_encWord (data : DataField) : decode (BitVec.ofNat 16 (0x4000 + data.toNat)) = .instr (.enc data) := by
  obtain ⟨hop, hrsv, hdata⟩ := fields_of_word (op := 1) (by decide) data
  simp_all [decode]

/-- The word of DEC decodes to DEC, with every DATA value (30_encoding.md R56, R58). -/
theorem decode_decWord (data : DataField) : decode (BitVec.ofNat 16 (0x8000 + data.toNat)) = .instr (.dec data) := by
  obtain ⟨hop, hrsv, hdata⟩ := fields_of_word (op := 2) (by decide) data
  simp_all [decode]

/-- The one word that decodes to INIT is 0x0000 (30_encoding.md R56). -/
theorem eq_zero_of_decode_init {cw : CommandWord} (h : decode cw = .instr .init) : cw = 0 := by
  obtain ⟨hopField, hrsvField, hdataField⟩ := fields_toNat cw
  have hlt := cw.isLt
  unfold decode at h
  split at h
  case isTrue => cases h
  case isFalse hrsv =>
    split at h
    case h_1 hop =>
      split at h
      case isTrue hdata =>
        have hrsv0 : (rsvField cw).toNat = 0 := congrArg BitVec.toNat (not_not.mp hrsv)
        have hdata0 : (dataField cw).toNat = 0 := congrArg BitVec.toNat hdata
        have hcw : cw.toNat = 0 := by omega
        exact BitVec.eq_of_toNat_eq hcw
      case isFalse => cases h
    all_goals cases h

/-! ## A step by its oldest input -/

/-- With no input pending a step holds the state (60_exceptions.md R154). -/
theorem step_idle {s t : State} (hin : s.inputs = []) (h : step s = .next t) : s = t := by
  simpa only [step, serve, hin, Host.Outcome.next.injEq] using h

/-- A command word during which K changes: the word with K not stable, then the new value on K. -/
theorem issueWhileKeyChanges_next {cw : CommandWord} {k : KeyMaterial} {s t : State}
    (h : issueWhileKeyChanges cw k s = .next t) :
    ∃ u, issueCommand cw (setKeyStable false s) = .next u ∧ t = driveKeyPort k u := by
  obtain ⟨u, hu⟩ := issueCommand_answers cw (setKeyStable false s)
  exact ⟨u, hu, Host.Outcome.next.inj (h.symm.trans (issueWhileKeyChanges_eq hu))⟩

/-- An observation read that answers only adds the value it read. -/
theorem readObservation_next {port : ObsPort} {s t : State} (h : readObservation port s = .next t) :
    ∃ v, observed port s = some v ∧ t = { s with outputs := s.outputs ++ [v] } := by
  rcases readObservation_cases port s with ⟨v, hv, he⟩ | ⟨-, he⟩ <;> rw [he] at h <;> cases h
  exact ⟨v, hv, rfl⟩

/-! ## What a step does to the block -/

/-- The key material an INIT loads when K changed before its response, as a value (70_reset_and_hazards.md R165). -/
def unspecifiedKey (n : Nat) : KeyMaterial where
  lengths := Config.unspecifiedLengths n
  patterns := Config.unspecifiedPatterns n
  indicators := Config.unspecifiedPositions n

/-- The load of an unspecified key store is the load of that key material. -/
theorem loadUnspecifiedKey_eq (s : State) : loadUnspecifiedKey s = loadKey (unspecifiedKey s.freeIndex) s := rfl

/-- A command word is the oldest input, with K held stable or changing. -/
def CommandPending (s : State) (cw : CommandWord) : Prop :=
  ∃ rest, s.inputs = .command cw :: rest ∨ ∃ k, s.inputs = .commandKeyChanging cw k :: rest

/-- RST is the oldest input, alone or during a command. -/
def ResetPending (s : State) : Prop :=
  ∃ rest, s.inputs = .reset :: rest ∨ ∃ cw, s.inputs = .commandAborted cw :: rest

/-- What a step from `s` to `t` can do to the block. -/
inductive BlockStep (s t : State) : Prop where
  /-- Nothing: no input, an error, an observation read, a new value on K. -/
  | held (same : SameBlock s t)
  /-- RST (70_reset_and_hazards.md R160). -/
  | reset (pending : ResetPending s) (cleared : t.initDone = false)
  /-- An INIT answered OK (40_rotor_position_register.md R76); what it loads is valid when K is held stable. -/
  | loaded (k : KeyMaterial) (pending : CommandPending s 0) (valid : KeyWindowRespected s → validK k = true)
      (answer : t.outputs = s.outputs ++ [.response 0]) (same : SameBlock (loadKey k s) t)
  /-- An ENC or a DEC answered OK (42_permutation_network_xor_stage.md R109). -/
  | advanced (cw : CommandWord) (c : CodeUnit) (u : State) (pending : CommandPending s cw)
      (ready : s.initDone = true) (answer : t.outputs = s.outputs ++ [.response (responseWord .ok c)])
      (start : SameBlock s u) (same : SameBlock (advAll u) t)

/-- A command word in a step, with K held stable or not, as an effect on the block. -/
theorem issueCommand_blockStep {s t : State} {cw : CommandWord} {rest : List HostInput} {stable : Bool}
    (hpending : CommandPending s cw) (hstable : KeyWindowRespected s → decode cw = .instr .init → stable = true)
    (h : issueCommand cw (setKeyStable stable (takeInput rest s)) = .next t) : BlockStep s t := by
  rcases issueCommand_next_cases h with ⟨e, rfl⟩ | ⟨hd, hload⟩ | ⟨-, hready, c, rfl⟩
  · exact .held (.refl s)
  · obtain rfl := eq_zero_of_decode_init hd
    rcases hload with ⟨-, hv, rfl⟩ | ⟨hs, rfl⟩
    · exact .loaded s.keyPort hpending (fun _ => hv) rfl (.refl _)
    · rw [loadUnspecifiedKey_eq]
      have hunstable : KeyWindowRespected s → False := fun hw => absurd ((hstable hw hd).symm.trans hs) (by simp)
      exact .loaded (unspecifiedKey (s.freeIndex + 1)) hpending (fun hw => (hunstable hw).elim) rfl (.refl _)
  · exact .advanced cw c (setKeyStable stable (takeInput rest s)) hpending hready (by simp) (.refl s)
      (.respond .ok c _)

/-- Driving K leaves the block as it is. -/
theorem BlockStep.driveKeyPort {s t : State} (h : BlockStep s t) (k : KeyMaterial) :
    BlockStep s (driveKeyPort k t) := by
  cases h with
  | held same => exact .held same
  | reset pending cleared => exact .reset pending cleared
  | loaded k' pending valid answer same => exact .loaded k' pending valid answer same
  | advanced cw c u pending ready answer start same => exact .advanced cw c u pending ready answer start same

/-- Everything a step can do to the block, over every input. -/
theorem step_blockStep {s t : State} (h : step s = .next t) : BlockStep s t := by
  cases hin : s.inputs with
  | nil =>
    obtain rfl := step_idle hin h
    exact .held (.refl s)
  | cons input rest =>
    rw [step_cons hin] at h
    cases input with
    | command cw => exact issueCommand_blockStep ⟨rest, .inl hin⟩ (fun _ _ => rfl) h
    | commandKeyChanging cw k =>
      obtain ⟨u, hu, rfl⟩ := issueWhileKeyChanges_next h
      refine (issueCommand_blockStep ⟨rest, .inr ⟨k, hin⟩⟩ (fun hw hd => ?_) hu).driveKeyPort k
      exact absurd hd (hw (.commandKeyChanging cw k) (by simp [hin]))
    | commandAborted cw =>
      cases h
      exact .reset ⟨rest, .inr ⟨cw, hin⟩⟩ rfl
    | reset =>
      cases h
      exact .reset ⟨rest, .inl hin⟩ rfl
    | driveKey k =>
      cases h
      exact .held (.refl s)
    | observe port =>
      obtain ⟨v, -, rfl⟩ := readObservation_next h
      exact .held (.refl s)

/-! ## The inputs a step leaves -/

/-- A command word leaves the inputs alone. -/
theorem issueCommand_inputs {cw : CommandWord} {s t : State} (h : issueCommand cw s = .next t) :
    t.inputs = s.inputs := by
  rcases issueCommand_next_cases h with ⟨e, rfl⟩ | ⟨-, ⟨-, -, rfl⟩ | ⟨-, rfl⟩⟩ | ⟨-, -, c, rfl⟩ <;> simp

/-- A step takes the oldest input and no other (20_memory.md R46). -/
theorem step_inputs {s t : State} (h : step s = .next t) : t.inputs = s.inputs.tail := by
  cases hin : s.inputs with
  | nil =>
    obtain rfl := step_idle hin h
    rw [hin, List.tail_nil]
  | cons input rest =>
    rw [step_cons hin] at h
    cases input with
    | command cw => exact issueCommand_inputs (s := setKeyStable true (takeInput rest s)) h
    | commandKeyChanging cw k =>
      obtain ⟨u, hu, rfl⟩ := issueWhileKeyChanges_next h
      exact issueCommand_inputs hu
    | commandAborted cw => cases h; rfl
    | reset => cases h; rfl
    | driveKey k => cases h; rfl
    | observe port =>
      obtain ⟨v, -, rfl⟩ := readObservation_next h
      rfl

/-! ## Settled: the invariant, and what writes the block -/

/-- A step keeps the invariant of 10_state.md R25 and R26, for a host that keeps the duty of
70_reset_and_hazards.md R165. -/
theorem BlockStep.keyStoreGood {s t : State} (h : BlockStep s t) (hgood : KeyStoreGood s)
    (hwindow : KeyWindowRespected s) : KeyStoreGood t := by
  cases h with
  | held same => exact hgood.congr same
  | reset _ cleared => exact .of_not_initDone cleared
  | loaded k _ valid _ same => exact (KeyStoreGood.loadKey (valid hwindow) s).congr same
  | advanced _ _ _ _ _ _ start same => exact (hgood.congr start).advAll.congr same

/-- Settles O43: by the cases of `BlockStep` for the key store; the inputs left are among those pending before. -/
theorem stepKeepsInvariant : Obligations.StepKeepsInvariant := by
  intro s t ⟨hgood, hwindow⟩ h
  refine ⟨(step_blockStep h).keyStoreGood hgood hwindow, fun input hi => hwindow input ?_⟩
  rw [step_inputs h] at hi
  exact List.mem_of_mem_tail hi

/-- The STATUS of an OK response is 000 (30_encoding.md R55). -/
theorem responseWord_ok_status (c : CodeUnit) : (responseWord .ok c).extractLsb' 5 3 = 0 := by
  revert c
  decide

/-- Settles O51, by the cases of `BlockStep`: each clause excludes the cases that leave its registers alone. -/
theorem onlyTheseWriteTheBlock : Obligations.OnlyTheseWriteTheBlock := by
  intro s t h
  cases step_blockStep h with
  | held same =>
    obtain ⟨hpos, hkl, hkp, hinit⟩ := same
    exact ⟨fun hne => absurd hne (by simp [hkl, hkp]), fun hne => absurd hpos.symm hne,
      fun hs ht => absurd (hs.symm.trans (hinit.trans ht)) (by simp),
      fun hs ht => absurd (hs.symm.trans (hinit.trans ht)) (by simp)⟩
  | reset pending cleared =>
    exact ⟨fun _ => .inr pending, fun _ => .inr pending, fun _ hi => absurd (cleared.symm.trans hi) (by simp),
      fun _ _ => pending⟩
  | loaded k pending valid answer same =>
    obtain ⟨-, -, -, hinit⟩ := same
    exact ⟨fun _ => .inl ⟨pending, answer⟩, fun _ => .inl ⟨⟨0, pending⟩, 0, answer, rfl⟩,
      fun _ _ => ⟨pending, answer⟩, fun _ hi => absurd (hinit.trans hi) (by simp)⟩
  | advanced cw c u pending ready answer start same =>
    obtain ⟨hkl, hkp, hinit⟩ := start.keyStore_of_advAll same
    exact ⟨fun hne => absurd hne (by simp [hkl, hkp]),
      fun _ => .inl ⟨⟨cw, pending⟩, _, answer, responseWord_ok_status c⟩,
      fun hs ht => absurd (hs.symm.trans (hinit.trans ht)) (by simp),
      fun hs ht => absurd (hs.symm.trans (hinit.trans ht)) (by simp)⟩

end Sys2Proof.Machine
end

section
/-! PROOF. What reads the key store: the banks, the observation outputs, the unit commands and their streams. -/

namespace Sys2Proof.Machine

/-! ## What the banks look at -/

/-- Pattern registers that have the bits of `s` at every position below a wheel's length (10_state.md R27). -/
def AgreesBelowLengths (s : State) (kp' : Vector Pattern 10) : Prop :=
  ∀ (w : WheelNo) (j : Nat), j < (s.kl.get w).toNat → (kp'.get w).getLsbD j = (s.kp.get w).getLsbD j

/-- The registers of `s` have the bits of `s`. -/
theorem AgreesBelowLengths.refl (s : State) : AgreesBelowLengths s s.kp := fun _ _ _ => rfl

/-- In the component range a wheel's current bit is a bit of its pattern below its length, whatever else differs
(10_state.md R27). -/
theorem currentBit_congr {s t : State} (hrange : WheelsInRange s) (hpos : t.pos = s.pos) (hkl : t.kl = s.kl)
    (hkp : AgreesBelowLengths s t.kp) (w : WheelNo) : currentBit w t = currentBit w s := by
  obtain ⟨-, hhigh, hlt⟩ := hrange w
  rw [currentBit_eq hlt (by omega), currentBit_eq (s := t) (by rwa [hpos, hkl]) (by rw [hpos]; omega), hpos]
  exact hkp w _ hlt

/-- In the component range a bank value looks at the positions, the lengths and the pattern bits below the lengths
only. -/
theorem bankValue_congr {s t : State} (hrange : WheelsInRange s) (hpos : t.pos = s.pos) (hkl : t.kl = s.kl)
    (hkp : AgreesBelowLengths s t.kp) (b : Bank) : bankValue b t = bankValue b s := by
  simp only [bankValue, currentBit_congr hrange hpos hkl hkp]

/-- Taking an input off the port, in the component range, does not change a bank value. -/
theorem bankValue_takeInput {s : State} (h : WheelsInRange s) (b : Bank) (rest : List HostInput) :
    bankValue b (takeInput rest s) = bankValue b s :=
  bankValue_congr (t := takeInput rest s) h rfl rfl (.refl s) b

/-! ## The observation outputs -/

/-- Reading an output that carries `v` delivers `v` and changes nothing of the block (10_state.md R31). -/
theorem step_observe_some {s : State} {port : ObsPort} {v : HostOutput} (rest : List HostInput)
    (h : observed port (takeInput rest s) = some v) :
    step { s with inputs := .observe port :: rest } = .next { s with
      inputs := rest, freeIndex := s.freeIndex + 1, outputs := s.outputs ++ [v] } := by
  have hread : readObservation port (takeInput rest s) =
      .next { takeInput rest s with outputs := s.outputs ++ [v] } := by
    simp only [readObservation, h, takeInput_outputs]
  exact hread

/-- Reading an output that carries no value is a fault of the model (10_state.md R31). -/
theorem step_observe_none {s : State} {port : ObsPort} (rest : List HostInput)
    (h : observed port (takeInput rest s) = none) :
    step { s with inputs := .observe port :: rest } = .fault (.obsNoValue port) := by
  have hread : readObservation port (takeInput rest s) = .fault (.obsNoValue port) := by
    simp only [readObservation, h]
  exact hread

/-- Before any INIT has succeeded, only OBS_INIT_DONE carries a value (10_state.md R31). -/
theorem observed_eq_none {s : State} {port : ObsPort} (hi : s.initDone = false) (hp : port ≠ .initDone) :
    observed port s = none := by
  cases port with
  | initDone => exact absurd rfl hp
  | _ => simp [observed, hi]

/-- Settles O49: what each port carries with INIT_DONE set and clear, and that the banks do not see the input taken. -/
theorem observationOutputs : Obligations.ObservationOutputs := by
  intro s rest w
  refine ⟨fun hi => ?_, fun hi hrange => ⟨?_, ?_⟩, fun hi => ⟨?_, ?_, ?_⟩, ?_⟩
  · exact step_observe_some rest (by simp [observed, hi])
  · exact step_observe_some rest (by simp [observed, hi, bankValue_takeInput hrange])
  · exact step_observe_some rest (by simp [observed, hi, bankValue_takeInput hrange])
  · exact step_observe_none rest (observed_eq_none hi (by simp))
  · exact step_observe_none rest (observed_eq_none hi (by simp))
  · exact step_observe_none rest (observed_eq_none hi (by simp))
  · exact step_observe_some rest rfl

/-! ## A unit command, case by case -/

/-- ENC and DEC before any INIT has succeeded (60_exceptions.md R142). -/
theorem processUnit_of_not_initDone (f : CodeUnit → CodeUnit → CodeUnit → CodeUnit) (data : DataField) {s : State}
    (hi : s.initDone = false) : processUnit f data s = raise .notInitialised s := by
  simp [processUnit, hi]

/-- ENC and DEC with DATA above 31 (60_exceptions.md R143). -/
theorem processUnit_of_large (f : CodeUnit → CodeUnit → CodeUnit → CodeUnit) {data : DataField} {s : State}
    (hi : s.initDone = true) (hd : 31 < data.toNat) : processUnit f data s = raise .domainError s := by
  simp [processUnit, hi, unitOperand_eq_none.mpr hd]

/-- ENC and DEC with a unit, on an initialised block (42_permutation_network_xor_stage.md R109). -/
theorem processUnit_unitData (f : CodeUnit → CodeUnit → CodeUnit → CodeUnit) (u : CodeUnit) {s : State}
    (hi : s.initDone = true) :
    processUnit f (unitData u) s = respond .ok (f u (bankValue .x s) (bankValue .s s)) (advAll s) := by
  simp [processUnit, hi, unitOperand_eq_some.mpr rfl]

/-! ## Pattern bits beyond the lengths -/

section
variable {s : State} {kp' : Vector Pattern 10}

/-- With other pattern bits beyond the lengths, in the component range, a bank value is the same. -/
theorem bankValue_with_kp (hrange : WheelsInRange s) (hkp : AgreesBelowLengths s kp') (b : Bank) :
    bankValue b { s with kp := kp' } = bankValue b s :=
  bankValue_congr (t := { s with kp := kp' }) hrange rfl rfl hkp b

/-- `ADV_ALL` moves the positions alike whatever the patterns are. -/
theorem advAll_with_kp : advAll { s with kp := kp' } = { advAll s with kp := kp' } := by
  have hpos : (advAll { s with kp := kp' }).pos = (advAll s).pos := advAll_pos_congr rfl rfl rfl
  rw [advAll_frame { s with kp := kp' }, hpos, advAll_frame s]

/-- With other pattern bits beyond the lengths, on a good key store, a unit command does the same. -/
theorem processUnit_with_kp (f : CodeUnit → CodeUnit → CodeUnit → CodeUnit) (data : DataField)
    (hgood : KeyStoreGood s) (hkp : AgreesBelowLengths s kp') :
    processUnit f data { s with kp := kp' } = { processUnit f data s with kp := kp' } := by
  rcases processUnit_cases f data s with ⟨hi, he⟩ | ⟨hi, hd, he⟩ | ⟨hi, u, rfl, he⟩ <;> rw [he]
  · exact processUnit_of_not_initDone f data hi
  · exact processUnit_of_large f hi hd
  · have hrange : WheelsInRange s := .of_engineReady ⟨hi, hgood⟩
    rw [processUnit_unitData f u (s := { s with kp := kp' }) hi, bankValue_with_kp hrange hkp,
      bankValue_with_kp hrange hkp, advAll_with_kp]
    rfl

/-- With other pattern bits beyond the lengths, on a good key store, every observation output reads the same. -/
theorem observed_with_kp (port : ObsPort) (hgood : KeyStoreGood s) (hkp : AgreesBelowLengths s kp') :
    observed port { s with kp := kp' } = observed port s := by
  by_cases hi : s.initDone = true
  · have hbank : ∀ b, bankValue b { s with kp := kp' } = bankValue b s :=
      bankValue_with_kp (.of_engineReady ⟨hi, hgood⟩) hkp
    cases port <;> simp only [observed, hbank]
  · cases port <;> simp [observed, hi]

end

/-- Settles O36: the banks look at no bit beyond a length, and the rest of a unit command at no pattern bit at all. -/
theorem bitsBeyondLengthAreUnobservable : Obligations.BitsBeyondLengthAreUnobservable := by
  intro s kp' hgood hkp
  refine ⟨fun data => ⟨⟨_, rfl, ?_⟩, _, rfl, ?_⟩, fun port => observed_with_kp port hgood hkp⟩
  · exact congrArg Host.Outcome.next (processUnit_with_kp encryptUnit data hgood hkp)
  · exact congrArg Host.Outcome.next (processUnit_with_kp decryptUnit data hgood hkp)

/-! ## Streams of unit commands -/

/-- One command of a stream: ENC or DEC of a unit. -/
def unitInput (p : Bool × CodeUnit) : HostInput :=
  if p.1 then encInput (p.2.setWidth 8) else decInput (p.2.setWidth 8)

/-- A word that decodes to a command runs that command. -/
theorem issueCommand_of_decode {cw : CommandWord} {i : Instr} {s : State} (h : decode cw = .instr i) :
    issueCommand cw s = exec i s := by
  simp only [issueCommand, h]

/-- The OK response is its unit, zero-extended (30_encoding.md R54, R55). -/
theorem responseWord_ok (c : CodeUnit) : responseWord .ok c = c.setWidth 8 := by
  revert c
  decide

/-- An initialised block answers one command of a stream OK and advances every wheel. -/
theorem step_unitInput {s : State} {p : Bool × CodeUnit} {rest : List HostInput} (hi : s.initDone = true)
    (hin : s.inputs = unitInput p :: rest) :
    ∃ c : CodeUnit, step s = .next (respond .ok c (advAll (setKeyStable true (takeInput rest s)))) := by
  have hi' : (setKeyStable true (takeInput rest s)).initDone = true := hi
  obtain ⟨encrypts, u⟩ := p
  rw [step_cons hin]
  cases encrypts with
  | true =>
    have hunit := processUnit_unitData encryptUnit u hi'
    exact ⟨_, (issueCommand_of_decode (decode_encWord _)).trans (congrArg Host.Outcome.next hunit)⟩
  | false =>
    have hunit := processUnit_unitData decryptUnit u hi'
    exact ⟨_, (issueCommand_of_decode (decode_decWord _)).trans (congrArg Host.Outcome.next hunit)⟩

/-- A stream of unit commands on an engine runs to its end, one OK response each, and counts into every position. -/
theorem run_unitInputs (units : List (Bool × CodeUnit)) {s : State} (h : EngineReady s)
    (hin : s.inputs = units.map unitInput) :
    ∃ (t : State) (answers : List CodeUnit),
      core.run units.length s = .next t ∧ t.inputs = [] ∧
      t.outputs = s.outputs ++ answers.map (fun a => .response (a.setWidth 8)) ∧
      answers.length = units.length ∧ t.kl = s.kl ∧ t.kp = s.kp ∧ t.initDone = true ∧
      ∀ w, (t.pos.get w).toNat = ((s.pos.get w).toNat + units.length) % (s.kl.get w).toNat := by
  induction units generalizing s with
  | nil =>
    refine ⟨s, [], run_zero s, hin, by simp, rfl, rfl, rfl, h.1, fun w => ?_⟩
    exact (Nat.mod_eq_of_lt (WheelsInRange.of_engineReady h w).2.2).symm
  | cons p units ih =>
    obtain ⟨c, hstep⟩ := step_unitInput h.1 hin
    have htaken : EngineReady (setKeyStable true (takeInput (units.map unitInput) s)) := h
    have hw : ∀ w, (setKeyStable true (takeInput (units.map unitInput) s)).kl.get w ≠ 0 :=
      (WheelsInRange.of_engineReady h).kl_ne_zero
    obtain ⟨t, answers, hrun, hinputs, houtputs, hlength, hkl, hkp, hinit, hpos⟩ :=
      ih (s := respond .ok c (advAll (setKeyStable true (takeInput (units.map unitInput) s))))
        (htaken.respond_advAll .ok c) (by simp)
    refine ⟨t, c :: answers, (run_succ hstep).trans hrun, hinputs, ?_, by simp [hlength], hkl.trans (by simp),
      hkp.trans (by simp), hinit, fun w => ?_⟩
    · simp [houtputs, responseWord_ok]
    · rw [hpos w, respond_pos, respond_kl, advAll_kl, advAll_pos_get_toNat (hw w)]
      exact succ_mod_add_mod _ _ _

/-- Settles O39, by induction on the stream. -/
theorem unitStreamCompletes : Obligations.UnitStreamCompletes :=
  fun _ units h => run_unitInputs units h rfl

end Sys2Proof.Machine
end

section
/-! PROOF. The command port: what a step adds to what the host receives, and the command it runs. -/

namespace Sys2Proof.Machine

/-! ## The outputs a step adds -/

/-- A command word adds one response to what the host has received (30_encoding.md R54). -/
theorem issueCommand_outputs {cw : CommandWord} {s t : State} (h : issueCommand cw s = .next t) :
    ∃ r : ResponseWord, t.outputs = s.outputs ++ [.response r] := by
  rcases issueCommand_next_cases h with ⟨e, rfl⟩ | ⟨-, ⟨-, -, rfl⟩ | ⟨-, rfl⟩⟩ | ⟨-, -, c, rfl⟩
  · exact ⟨_, raise_outputs e s⟩
  · exact ⟨_, respond_outputs .ok 0 (loadKey s.keyPort s)⟩
  · exact ⟨_, respond_outputs .ok 0 (loadUnspecifiedKey s)⟩
  · exact ⟨_, respond_outputs .ok c (advAll s)⟩

/-- One input adds at most one output, a response or the value of an observation read; RST and a new value on K add
none. -/
theorem acceptInput_outputs {input : HostInput} {s t : State} (h : acceptInput input s = .next t) :
    t.outputs = s.outputs ∨ ∃ v, t.outputs = s.outputs ++ [v] := by
  cases input with
  | command cw =>
    obtain ⟨r, hr⟩ := issueCommand_outputs (s := setKeyStable true s) h
    exact .inr ⟨_, hr⟩
  | commandKeyChanging cw k =>
    obtain ⟨u, hu, rfl⟩ := issueWhileKeyChanges_next h
    obtain ⟨r, hr⟩ := issueCommand_outputs hu
    exact .inr ⟨_, hr⟩
  | commandAborted cw => cases h; exact .inl rfl
  | reset => cases h; exact .inl rfl
  | driveKey k => cases h; exact .inl rfl
  | observe port =>
    obtain ⟨v, -, rfl⟩ := readObservation_next h
    exact .inr ⟨v, rfl⟩

/-- A step adds at most one output to what the host has received (20_memory.md R46). -/
theorem step_outputs {s t : State} (h : step s = .next t) :
    t.outputs = s.outputs ∨ ∃ v, t.outputs = s.outputs ++ [v] := by
  cases hin : s.inputs with
  | nil => exact .inl (congrArg State.outputs (step_idle hin h).symm)
  | cons input rest =>
    rw [step_cons hin] at h
    exact acceptInput_outputs (s := takeInput rest s) h

/-- Settles O48: `step_inputs` for the inputs, `step_outputs` for the outputs. -/
theorem inputsAreTakenInOrder : Obligations.InputsAreTakenInOrder := by
  intro s t h
  refine ⟨step_inputs h, ?_⟩
  rcases step_outputs h with hsame | ⟨v, hadd⟩
  · exact ⟨[], by simp [hsame], by simp⟩
  · exact ⟨[v], hadd, by simp⟩

/-! ## The command a step runs -/

/-- A pending word that decodes to a command runs that command, with K held stable (30_encoding.md R56). -/
theorem step_command {s : State} {cw : CommandWord} {rest : List HostInput} {i : Instr}
    (hin : s.inputs = .command cw :: rest) (hd : decode cw = .instr i) :
    step s = exec i (setKeyStable true (takeInput rest s)) :=
  (step_cons hin).trans (issueCommand_of_decode hd)

/-- A pending word that decodes to a command, with K changing to `k` during it: the command runs with K not stable, and
then K holds `k` (70_reset_and_hazards.md R165). -/
theorem step_commandKeyChanging {s t : State} {cw : CommandWord} {k : KeyMaterial} {rest : List HostInput} {i : Instr}
    (hin : s.inputs = .commandKeyChanging cw k :: rest) (hd : decode cw = .instr i)
    (he : exec i (setKeyStable false (takeInput rest s)) = .next t) : step s = .next (driveKeyPort k t) :=
  (step_cons hin).trans (issueWhileKeyChanges_eq ((issueCommand_of_decode hd).trans he))

/-- Settles O42: `step_command` with K stable; with K changing, `step_commandKeyChanging`, as every command answers. -/
theorem stepRunsDecodedCommand : Obligations.StepRunsDecodedCommand := by
  refine ⟨fun s cw rest i hin hd => step_command hin hd, fun s cw k rest i hin hd => ?_⟩
  obtain ⟨t, he⟩ := exec_answers i (setKeyStable false (takeInput rest s))
  exact ⟨t, he, step_commandKeyChanging hin hd he⟩

end Sys2Proof.Machine
end

section
/-! PROOF. The encoding: the words of every answer of the decoder, the lines of the assembler, the response word. -/

namespace Sys2Proof.Machine

/-! ## The encoder -/

/-- A power of two above the DATA field, OR the zero-extended field, is their sum. -/
theorem two_pow_or_data {k : Nat} (hk : 8 ≤ k) (data : DataField) :
    BitVec.ofNat 16 (2 ^ k) ||| data.setWidth 16 = BitVec.ofNat 16 (2 ^ k + data.toNat) := by
  have hlt : data.toNat < 2 ^ k := Nat.lt_of_lt_of_le data.isLt (Nat.pow_le_pow_right (by decide) hk)
  have hor : 2 ^ k + data.toNat = 2 ^ k ||| data.toNat := by
    simpa only [Nat.mul_one] using Nat.two_pow_add_eq_or_of_lt hlt 1
  rw [hor, BitVec.ofNat_or, BitVec.ofNat_toNat]

/-- ENC writes the word 0x4000 + DATA (30_encoding.md R58). -/
theorem encode_enc (data : DataField) : encode (.enc data) = BitVec.ofNat 16 (0x4000 + data.toNat) :=
  two_pow_or_data (k := 14) (by decide) data

/-- DEC writes the word 0x8000 + DATA (30_encoding.md R58). -/
theorem encode_dec (data : DataField) : encode (.dec data) = BitVec.ofNat 16 (0x8000 + data.toNat) :=
  two_pow_or_data (k := 15) (by decide) data

/-- The decoder gives back every command the encoder writes (30_encoding.md R60). -/
theorem decode_encode (i : Instr) : decode (encode i) = .instr i := by
  cases i with
  | init => rfl
  | enc data => rw [encode_enc, decode_encWord]
  | dec data => rw [encode_dec, decode_decWord]

/-! ## The words of every answer of the decoder -/

/-- The words that 30_encoding.md R58 and R59 give to an answer of the decoder: the one word of a command, and the set of
illegal words of each cause. -/
def WordSet : Decoded → CommandWord → Prop
  | .instr i, cw => cw = encode i
  | .illegal .reservedBits, cw => rsvField cw ≠ 0
  | .illegal .reservedOp, cw => 0xC000 ≤ cw.toNat ∧ cw.toNat ≤ 0xC0FF
  | .illegal .initData, cw => 0x0001 ≤ cw.toNat ∧ cw.toNat ≤ 0x00FF

/-- RSV is 0 exactly when bits 13 to 8 add nothing to the word's value. -/
theorem rsvField_eq_zero_iff {cw : CommandWord} : rsvField cw = 0 ↔ cw.toNat / 256 % 64 = 0 := by
  obtain ⟨-, hrsv, -⟩ := fields_toNat cw
  rw [← hrsv, ← BitVec.toNat_inj]
  rfl

/-- DATA is 0 exactly when bits 7 to 0 add nothing to the word's value. -/
theorem dataField_eq_zero_iff {cw : CommandWord} : dataField cw = 0 ↔ cw.toNat % 256 = 0 := by
  obtain ⟨-, -, hdata⟩ := fields_toNat cw
  rw [← hdata, ← BitVec.toNat_inj]
  rfl

/-- Every word lies in the set of its answer: the branches of 30_encoding.md R56. -/
theorem wordSet_decode (cw : CommandWord) : WordSet (decode cw) cw := by
  obtain ⟨hop, -, hdata⟩ := fields_toNat cw
  have hlt := cw.isLt
  unfold decode
  split
  case isTrue hrsv => exact hrsv
  case isFalse hrsv =>
    have hrsv0 := rsvField_eq_zero_iff.mp (not_not.mp hrsv)
    split
    case h_1 hop0 =>
      split
      case isTrue hdata0 =>
        have hlow := dataField_eq_zero_iff.mp hdata0
        have hzero : cw.toNat = 0 := by omega
        exact BitVec.eq_of_toNat_eq hzero
      case isFalse hdata0 =>
        have hlow := mt dataField_eq_zero_iff.mpr hdata0
        constructor <;> omega
    case h_2 hop1 =>
      refine Eq.trans (BitVec.eq_of_toNat_eq ?_) (encode_enc _).symm
      rw [BitVec.toNat_ofNat]
      omega
    case h_3 hop2 =>
      refine Eq.trans (BitVec.eq_of_toNat_eq ?_) (encode_dec _).symm
      rw [BitVec.toNat_ofNat]
      omega
    case h_4 h0 h1 h2 =>
      have hne : (opField cw).toNat ≠ 0 ∧ (opField cw).toNat ≠ 1 ∧ (opField cw).toNat ≠ 2 := ⟨h0, h1, h2⟩
      constructor <;> omega

/-- The decoder gives an answer exactly for the words of its set. -/
theorem decode_eq_iff {cw : CommandWord} {d : Decoded} : decode cw = d ↔ WordSet d cw := by
  refine ⟨fun h => h ▸ wordSet_decode cw, fun h => ?_⟩
  obtain ⟨hop, -, -⟩ := fields_toNat cw
  match d, h with
  | .instr i, h => exact h ▸ decode_encode i
  | .illegal .reservedBits, h => exact if_pos h
  | .illegal .reservedOp, ⟨hlow, hhigh⟩ =>
    have hrsv : rsvField cw = 0 := rsvField_eq_zero_iff.mpr (by omega)
    have hop3 : (opField cw).toNat = 3 := by omega
    simp [decode, hrsv, hop3]
  | .illegal .initData, ⟨hlow, hhigh⟩ =>
    have hrsv : rsvField cw = 0 := rsvField_eq_zero_iff.mpr (by omega)
    have hop0 : (opField cw).toNat = 0 := by omega
    have hdata : ¬dataField cw = 0#8 := mt dataField_eq_zero_iff.mp (by omega)
    simp [decode, hrsv, hop0, hdata]

/-- Settles O1: `decode_encode`, and `decode_eq_iff` for the one word of a command. -/
theorem decodeEncodeAgree : Obligations.DecodeEncodeAgree :=
  ⟨decode_encode, fun _ _ h => (decode_eq_iff.mp h).symm⟩

/-- A word is the one with the high byte `hi` and the low byte `lo` exactly when its two bytes are these. -/
theorem eq_ofNat_bytes_iff (cw : CommandWord) (hi lo : BitVec 8) :
    cw = BitVec.ofNat 16 (256 * hi.toNat + lo.toNat) ↔ cw.extractLsb' 8 8 = hi ∧ cw.extractLsb' 0 8 = lo := by
  simp only [← BitVec.toNat_inj, BitVec.extractLsb'_toNat, Nat.shiftRight_eq_div_pow, BitVec.toNat_ofNat]
  omega

/-- An illegal word is one in the set of some cause (30_encoding.md R59). -/
theorem exists_illegal_iff {cw : CommandWord} :
    (∃ why, decode cw = .illegal why) ↔
      rsvField cw ≠ 0 ∨ (0xC000 ≤ cw.toNat ∧ cw.toNat ≤ 0xC0FF) ∨ (0x0001 ≤ cw.toNat ∧ cw.toNat ≤ 0x00FF) := by
  simp only [decode_eq_iff]
  constructor
  · rintro ⟨why, h⟩
    cases why with
    | reservedBits => exact .inl h
    | reservedOp => exact .inr (.inl h)
    | initData => exact .inr (.inr h)
  · rintro (h | h | h)
    exacts [⟨.reservedBits, h⟩, ⟨.reservedOp, h⟩, ⟨.initData, h⟩]

/-- The words 0xC000 to 0xC0FF are those with RSV = 0 and OP = 11. -/
theorem reservedOp_range_iff (cw : CommandWord) :
    (0xC000 ≤ cw.toNat ∧ cw.toNat ≤ 0xC0FF) ↔ rsvField cw = 0 ∧ opField cw = 3 := by
  obtain ⟨hop, -, -⟩ := fields_toNat cw
  have hlt := cw.isLt
  rw [rsvField_eq_zero_iff, ← BitVec.toNat_inj, hop]
  change _ ↔ _ ∧ _ = 3
  omega

/-- The words 0x0001 to 0x00FF are those with OP = 00, RSV = 0 and DATA not 0. -/
theorem initData_range_iff (cw : CommandWord) :
    (0x0001 ≤ cw.toNat ∧ cw.toNat ≤ 0x00FF) ↔ cw.extractLsb' 8 8 = 0x00 ∧ dataField cw ≠ 0 := by
  have hhigh : (cw.extractLsb' 8 8).toNat = cw.toNat / 256 % 256 := by
    simp [BitVec.extractLsb'_toNat, Nat.shiftRight_eq_div_pow]
  have hlt := cw.isLt
  rw [ne_eq, dataField_eq_zero_iff, ← BitVec.toNat_inj, hhigh]
  change _ ↔ _ = 0 ∧ _
  omega

/-- Settles O2: the set of words of each answer, by the two bytes of the word. -/
theorem decoderClassifiesEveryWord : Obligations.DecoderClassifiesEveryWord := by
  refine fun cw => ⟨decode_eq_iff, fun data => ?_, fun data => ?_, ?_⟩
  · rw [decode_eq_iff, WordSet, encode_enc]
    exact eq_ofNat_bytes_iff cw 0x40 data
  · rw [decode_eq_iff, WordSet, encode_dec]
    exact eq_ofNat_bytes_iff cw 0x80 data
  · rw [exists_illegal_iff, reservedOp_range_iff, initData_range_iff]
    rfl

/-! ## The answer to an illegal word -/

/-- An illegal word raises ILLEGAL_COMMAND (60_exceptions.md R141). -/
theorem step_illegal {s : State} {cw : CommandWord} {rest : List HostInput} {why : IllegalCause}
    (hin : s.inputs = .command cw :: rest) (hd : decode cw = .illegal why) :
    step s = .next (raise .illegalCommand (setKeyStable true (takeInput rest s))) := by
  have hissue : issueCommand cw (setKeyStable true (takeInput rest s)) =
      .next (raise .illegalCommand (setKeyStable true (takeInput rest s))) := by
    simp only [issueCommand, hd]
  exact (step_cons hin).trans hissue

/-- Settles O3: the sets are those of `WordSet`; the step is `step_illegal`, and an error is only a response. -/
theorem illegalSetsAreAnswered : Obligations.IllegalSetsAreAnswered :=
  ⟨fun _ => decode_eq_iff, fun _ => decode_eq_iff, fun _ => decode_eq_iff,
    fun _ _ _ _ hin hd => ⟨_, step_illegal hin hd, .respond (.error .illegalCommand) 0 _, rfl⟩⟩

/-! ## The lines of the assembler -/

/-- `f` is the assembler of one unit command: `c` is the command, whose word is `base` + DATA, and `f` writes that word for
a unit up to 31 and refuses the others (30_encoding.md R61). -/
structure UnitAssembler (f : Nat → Option CommandWord) (base : Nat) (c : DataField → Instr) : Prop where
  assemble : ∀ u, f u = if u ≤ 31 then some (BitVec.ofNat 16 (base + u)) else none
  word : ∀ data, encode (c data) = BitVec.ofNat 16 (base + data.toNat)
  wellFormed : ∀ data, (c data).wellFormed = decide (data.toNat ≤ 31)

/-- The assembler of `ENC u`. -/
theorem UnitAssembler.enc : UnitAssembler assembleEnc 0x4000 .enc := ⟨fun _ => rfl, encode_enc, fun _ => rfl⟩

/-- The assembler of `DEC u`. -/
theorem UnitAssembler.dec : UnitAssembler assembleDec 0x8000 .dec := ⟨fun _ => rfl, encode_dec, fun _ => rfl⟩

/-- The expansion of a list holds the word of each member, in order. -/
theorem assembleEach_eq_some_iff {f : Nat → Option CommandWord} {us : List Nat} {cws : List CommandWord} :
    assembleEach f us = some cws ↔ us.map f = cws.map some := by
  induction us generalizing cws with
  | nil => cases cws <;> simp [assembleEach]
  | cons u us ih =>
    cases cws with
    | nil => cases hu : f u <;> cases hus : assembleEach f us <;> simp [assembleEach, hu, hus]
    | cons cw cws =>
      rw [List.map_cons, List.map_cons, List.cons.injEq, ← ih]
      cases hu : f u <;> cases hus : assembleEach f us <;> simp [assembleEach, hu, hus]

/-- A list whose members all assemble expands to their words. -/
theorem assembleEach_of_forall {f : Nat → Option CommandWord} {g : Nat → CommandWord} {us : List Nat}
    (h : ∀ u ∈ us, f u = some (g u)) : assembleEach f us = some (us.map g) := by
  rw [assembleEach_eq_some_iff, List.map_map]
  exact List.map_congr_left h

/-- Every word of an expansion is the word of a member. -/
theorem exists_of_mem_assembleEach {f : Nat → Option CommandWord} {us : List Nat} {cws : List CommandWord}
    {cw : CommandWord} (h : assembleEach f us = some cws) (hmem : cw ∈ cws) : ∃ u ∈ us, f u = some cw := by
  have hsome : some cw ∈ us.map f := assembleEach_eq_some_iff.mp h ▸ List.mem_map_of_mem hmem
  exact List.mem_map.mp hsome

/-- A list with a refused member is refused. -/
theorem assembleEach_eq_none {f : Nat → Option CommandWord} {us : List Nat} {u : Nat} (hmem : u ∈ us)
    (hu : f u = none) : assembleEach f us = none := by
  refine Option.eq_none_iff_forall_ne_some.mpr fun cws h => ?_
  have hnone : none ∈ cws.map some := hu ▸ assembleEach_eq_some_iff.mp h ▸ List.mem_map_of_mem hmem
  simp at hnone

section
variable {f : Nat → Option CommandWord} {base : Nat} {c : DataField → Instr}

/-- A unit up to 31 is assembled. -/
theorem UnitAssembler.of_le (hf : UnitAssembler f base c) {u : Nat} (hu : u ≤ 31) :
    f u = some (BitVec.ofNat 16 (base + u)) :=
  (hf.assemble u).trans (if_pos hu)

/-- A unit above 31 is refused. -/
theorem UnitAssembler.of_gt (hf : UnitAssembler f base c) {u : Nat} (hu : 31 < u) : f u = none :=
  (hf.assemble u).trans (if_neg (Nat.not_le.mpr hu))

/-- The word of a well-formed command is what its unit assembles to. -/
theorem UnitAssembler.of_wellFormed (hf : UnitAssembler f base c) {data : DataField}
    (h : (c data).wellFormed = true) : f data.toNat = some (encode (c data)) := by
  rw [hf.wellFormed, decide_eq_true_eq] at h
  rw [hf.of_le h, hf.word]

/-- A word that is assembled is the word of a well-formed command. -/
theorem UnitAssembler.exists_wellFormed (hf : UnitAssembler f base c) {u : Nat} {cw : CommandWord}
    (h : f u = some cw) : ∃ i : Instr, i.wellFormed = true ∧ encode i = cw := by
  by_cases hu : u ≤ 31
  · have hdata : (BitVec.ofNat 8 u).toNat = u := Nat.mod_eq_of_lt (by omega)
    refine ⟨c (BitVec.ofNat 8 u), ?_, ?_⟩
    · rw [hf.wellFormed, hdata, decide_eq_true hu]
    · rw [hf.word, hdata]
      exact Option.some.inj ((hf.of_le hu).symm.trans h)
  · rw [hf.of_gt (Nat.not_le.mp hu)] at h
    cases h

/-- The pseudo-instruction expands a list of at least one unit, none above 31. -/
theorem UnitAssembler.expand_eq_some (hf : UnitAssembler f base c) {us : List Nat} (hne : us ≠ [])
    (hus : ∀ u ∈ us, u ≤ 31) :
    (if us.isEmpty then none else assembleEach f us) = some (us.map fun u => BitVec.ofNat 16 (base + u)) := by
  rw [if_neg (by simpa using hne), assembleEach_of_forall fun u hu => hf.of_le (hus u hu)]

/-- The pseudo-instruction refuses a list that is empty or has a unit above 31. -/
theorem UnitAssembler.expand_eq_none (hf : UnitAssembler f base c) {us : List Nat}
    (h : us = [] ∨ ∃ u ∈ us, 31 < u) : (if us.isEmpty then none else assembleEach f us) = none := by
  rcases h with rfl | ⟨u, hmem, hu⟩
  · rfl
  · rw [assembleEach_eq_none hmem (hf.of_gt hu), ite_self]

/-- Every word of an expanded list is the word of a well-formed command. -/
theorem UnitAssembler.exists_wellFormed_of_mem (hf : UnitAssembler f base c) {us : List Nat}
    {cws : List CommandWord} {cw : CommandWord}
    (h : (if us.isEmpty then none else assembleEach f us) = some cws) (hmem : cw ∈ cws) :
    ∃ i : Instr, i.wellFormed = true ∧ encode i = cw := by
  split at h
  · cases h
  · obtain ⟨u, -, hu⟩ := exists_of_mem_assembleEach h hmem
    exact hf.exists_wellFormed hu

end

/-- Every word that a line other than `.word` writes is the word of a well-formed command (log 10). -/
theorem exists_wellFormed_of_assembleLine {l : AsmLine} {cws : List CommandWord} {cw : CommandWord}
    (hl : ∀ h, l ≠ .word h) (h : assembleLine l = some cws) (hmem : cw ∈ cws) :
    ∃ i : Instr, i.wellFormed = true ∧ encode i = cw := by
  cases l with
  | init =>
    cases h
    exact ⟨.init, rfl, (List.mem_singleton.mp hmem).symm⟩
  | restart =>
    cases h
    exact ⟨.init, rfl, (List.mem_singleton.mp hmem).symm⟩
  | enc u =>
    obtain ⟨cw', hu, rfl⟩ := Option.map_eq_some_iff.mp h
    exact UnitAssembler.enc.exists_wellFormed (List.mem_singleton.mp hmem ▸ hu)
  | dec u =>
    obtain ⟨cw', hu, rfl⟩ := Option.map_eq_some_iff.mp h
    exact UnitAssembler.dec.exists_wellFormed (List.mem_singleton.mp hmem ▸ hu)
  | word n => exact absurd rfl (hl n)
  | encs us => exact UnitAssembler.enc.exists_wellFormed_of_mem h hmem
  | decs us => exact UnitAssembler.dec.exists_wellFormed_of_mem h hmem

/-- The line that stands for a command. -/
def lineOf : Instr → AsmLine
  | .init => .init
  | .enc data => .enc data.toNat
  | .dec data => .dec data.toNat

/-- The line of a command is no `.word`. -/
theorem lineOf_ne_word (i : Instr) (h : Nat) : lineOf i ≠ .word h := by
  cases i <;> simp [lineOf]

/-- The line of a well-formed command writes the word of that command (30_encoding.md R61). -/
theorem assembleLine_lineOf {i : Instr} (h : i.wellFormed = true) : assembleLine (lineOf i) = some [encode i] := by
  cases i with
  | init => rfl
  | enc data => exact congrArg (Option.map ([·])) (UnitAssembler.enc.of_wellFormed h)
  | dec data => exact congrArg (Option.map ([·])) (UnitAssembler.dec.of_wellFormed h)

/-- A command is well-formed exactly when a line other than `.word` writes its word (log 10): the words of well-formed
commands are all that such lines write, and the encoder gives no word to two commands. -/
theorem wellFormed_iff_exists_line (i : Instr) :
    i.wellFormed = true ↔ ∃ l, assembleLine l = some [encode i] ∧ ∀ h, l ≠ .word h := by
  refine ⟨fun h => ⟨lineOf i, assembleLine_lineOf h, lineOf_ne_word i⟩, fun ⟨l, hline, hl⟩ => ?_⟩
  obtain ⟨j, hj, hword⟩ := exists_wellFormed_of_assembleLine hl hline (List.mem_singleton_self _)
  have hsame : Decoded.instr j = .instr i := by rw [← decode_encode j, hword, decode_encode]
  rwa [Decoded.instr.inj hsame] at hj

/-- `.word` writes any 16-bit word (30_encoding.md R61). -/
theorem assembleLine_word (cw : CommandWord) : assembleLine (.word cw.toNat) = some [cw] := by
  simp [assembleLine, cw.isLt]

/-- Settles O5: one unit and a list of units by `UnitAssembler`, for ENC and for DEC; the last clause by
`wellFormed_iff_exists_line`. -/
theorem assemblerExpandsStreams : Obligations.AssemblerExpandsStreams := by
  refine ⟨rfl, rfl, fun u hu => ⟨?_, ?_⟩, fun u hu => ⟨?_, ?_⟩, assembleLine_word, fun us hne hus => ⟨?_, ?_⟩,
    fun us hus => ⟨?_, ?_⟩, wellFormed_iff_exists_line⟩
  · exact congrArg (Option.map ([·])) (UnitAssembler.enc.of_le hu)
  · exact congrArg (Option.map ([·])) (UnitAssembler.dec.of_le hu)
  · exact congrArg (Option.map ([·])) (UnitAssembler.enc.of_gt hu)
  · exact congrArg (Option.map ([·])) (UnitAssembler.dec.of_gt hu)
  · exact UnitAssembler.enc.expand_eq_some hne hus
  · exact UnitAssembler.dec.expand_eq_some hne hus
  · exact UnitAssembler.enc.expand_eq_none hus
  · exact UnitAssembler.dec.expand_eq_none hus

/-! ## The response word -/

/-- Bits 7 to 5 of a response word are its STATUS code (30_encoding.md R54). -/
theorem responseWord_status (st : Status) (d : CodeUnit) : (responseWord st d).extractLsb' 5 3 = st.code :=
  BitVec.extractLsb'_append_eq_left

/-- Bits 4 to 0 of a response word are its RDATA (30_encoding.md R54). -/
theorem responseWord_rdata (st : Status) (d : CodeUnit) : (responseWord st d).extractLsb' 0 5 = d :=
  BitVec.extractLsb'_append_eq_right

/-- The status of a response word reads back (30_encoding.md R55). -/
theorem readStatus_responseWord (st : Status) (d : CodeUnit) : readStatus (responseWord st d) = some st := by
  rw [readStatus, statusField, responseWord_status]
  rcases st with _ | (_ | _ | _ | _) <;> rfl

/-- The STATUS codes 101, 110 and 111 are never produced (30_encoding.md R55). -/
theorem Status.code_toNat_le (st : Status) : st.code.toNat ≤ 4 := by
  rcases st with _ | (_ | _ | _ | _) <;> decide

/-- Settles O6: the layout, then the code of each status. -/
theorem responseWordLayout : Obligations.ResponseWordLayout := fun d =>
  ⟨fun st => ⟨responseWord_rdata st d, readStatus_responseWord st d⟩, responseWord_status .ok d,
    responseWord_status (.error .domainError) d, responseWord_status (.error .configError) d,
    responseWord_status (.error .illegalCommand) d, responseWord_status (.error .notInitialised) d⟩

/-! ## The response to a word -/

/-- A command word is answered with one response, whose RDATA is 0 but for an OK to a word other than INIT's
(30_encoding.md R54). -/
theorem issueCommand_response {cw : CommandWord} {s t : State} (h : issueCommand cw s = .next t) :
    ∃ (st : Status) (d : CodeUnit), t.outputs = s.outputs ++ [.response (responseWord st d)] ∧
      (st ≠ .ok ∨ cw = 0x0000 → d = 0) := by
  rcases issueCommand_next_cases h with ⟨e, rfl⟩ | ⟨-, ⟨-, -, rfl⟩ | ⟨-, rfl⟩⟩ | ⟨hd, -, c, rfl⟩
  · exact ⟨.error e, 0, raise_outputs e s, fun _ => rfl⟩
  · exact ⟨.ok, 0, respond_outputs .ok 0 (loadKey s.keyPort s), fun _ => rfl⟩
  · exact ⟨.ok, 0, respond_outputs .ok 0 (loadUnspecifiedKey s), fun _ => rfl⟩
  · refine ⟨.ok, c, respond_outputs .ok c (advAll s), fun hzero => ?_⟩
    rcases hzero with hok | rfl
    exacts [absurd rfl hok, absurd rfl hd]

/-- A step on a command word, with K held stable or changing, is answered as the word is. -/
theorem step_response {s t : State} {cw : CommandWord} (hpending : CommandPending s cw) (h : step s = .next t) :
    ∃ (st : Status) (d : CodeUnit), t.outputs = s.outputs ++ [.response (responseWord st d)] ∧
      (st ≠ .ok ∨ cw = 0x0000 → d = 0) := by
  obtain ⟨rest, hin | ⟨k, hin⟩⟩ := hpending
  · rw [step_cons hin] at h
    exact issueCommand_response (s := setKeyStable true (takeInput rest s)) h
  · rw [step_cons hin] at h
    obtain ⟨u, hu, rfl⟩ := issueWhileKeyChanges_next h
    have hresponse := issueCommand_response hu
    exact hresponse

/-- Settles O8: the response of `step_response`, read by its fields. -/
theorem responseDataOnlyForUnits : Obligations.ResponseDataOnlyForUnits := by
  intro s t cw k rest hin h
  obtain ⟨st, d, houtputs, hdata⟩ := step_response ⟨rest, hin.imp_right fun hk => ⟨k, hk⟩⟩ h
  refine ⟨responseWord st d, houtputs, ?_⟩
  rw [responseWord_status, responseWord_rdata]
  refine ⟨st.code_toNat_le, fun hzero => hdata (hzero.imp_left ?_)⟩
  rintro hcode rfl
  exact hcode rfl

end Sys2Proof.Machine
end

section
/-! PROOF. What valid key material is, and what INIT does with it. -/

namespace Sys2Proof.Machine

/-! ## The lengths as a multiset -/

/-- The ten registers hold no value twice exactly when no two wheels hold the same value. -/
theorem nodup_lengths_iff {kl : Vector WheelLength 10} :
    kl.toList.Nodup ↔ ∀ v w : WheelNo, kl.get v = kl.get w → v = w := by
  have hlist : kl.toList = List.ofFn kl.get :=
    List.ext_getElem (by simp) fun i _ _ => by
      simp only [Vector.getElem_toList, List.getElem_ofFn, Vector.get_eq_getElem]
  rw [hlist]
  exact List.nodup_ofFn

/-- 40_rotor_position_register.md R77: ten lengths are `LSET` in some order exactly when each is a member and no two are
equal, because `LSET` has ten distinct members. -/
theorem lengths_perm_lset_iff {kl : Vector WheelLength 10} :
    kl.toList.Perm Config.lset ↔
      (∀ w : WheelNo, kl.get w ∈ Config.lset) ∧ ∀ v w : WheelNo, kl.get v = kl.get w → v = w := by
  have hdistinct : Config.lset.Nodup := by decide
  rw [forall_lengths_iff (p := (· ∈ Config.lset)), ← nodup_lengths_iff]
  constructor
  · exact fun hperm => ⟨fun _ hl => hperm.subset hl, hperm.nodup_iff.mpr hdistinct⟩
  · rintro ⟨hmem, hnodup⟩
    have hlength : Config.lset.length ≤ kl.toList.length := by simp [Config.lset]
    exact (List.subperm_of_subset hnodup hmem).perm_of_length_le hlength

/-- `ValidK` in the words of 40_rotor_position_register.md R77: an equality of multisets and a bound on the
indicators. -/
theorem validK_iff_multiset {k : KeyMaterial} :
    validK k = true ↔
      Multiset.ofList k.lengths.toList = Multiset.ofList Config.lset ∧
        ∀ w, (k.indicators.get w).toNat < (k.lengths.get w).toNat := by
  rw [validK_eq_true, Multiset.coe_eq_coe]

/-! ## INIT with K held stable -/

/-- INIT with valid key material loads it (40_rotor_position_register.md R76). -/
theorem execInit_of_valid {s : State} (hs : s.keyStable = true) (hk : validK s.keyPort = true) :
    execInit s = .next (respond .ok 0 (loadKey s.keyPort s)) := by
  simp only [execInit, hs, hk, if_true]

/-- INIT with invalid key material raises CONFIG_ERROR (60_exceptions.md R144). -/
theorem execInit_of_invalid {s : State} (hs : s.keyStable = true) (hk : validK s.keyPort ≠ true) :
    execInit s = .next (raise .configError s) := by
  simp only [execInit, hs, if_true, if_neg hk]

/-! ## Settled: key material and INIT -/

/-- Settles O15: the two conditions of `ValidK`, the first of them by `lengths_perm_lset_iff`; neither reads a
pattern. -/
theorem validKeyMaterial : Obligations.ValidKeyMaterial :=
  ⟨fun _ => validK_iff_multiset, fun _ => Multiset.coe_eq_coe.trans lengths_perm_lset_iff, fun _ _ => rfl⟩

/-- Settles O16: the load and the two response words written out. -/
theorem initLoadsKeyMaterial : Obligations.InitLoadsKeyMaterial := by
  intro s hs
  rw [← validK_iff_multiset]
  exact ⟨execInit_of_valid hs, execInit_of_invalid hs⟩

/-- Settles O18: every answer of INIT is the response of an error, or that of OK after a load. -/
theorem initFrame : Obligations.InitFrame := by
  intro s t h
  rcases exec_next_cases h with ⟨e, rfl⟩ | ⟨-, ⟨-, -, rfl⟩ | ⟨-, rfl⟩⟩ | ⟨hinit, -, -⟩
  · exact ⟨rfl, rfl, rfl, rfl, _, raise_outputs e s⟩
  · exact ⟨rfl, rfl, rfl, rfl, _, respond_outputs .ok 0 (loadKey s.keyPort s)⟩
  · exact ⟨rfl, rfl, rfl, rfl, _, respond_outputs .ok 0 (loadUnspecifiedKey s)⟩
  · exact absurd rfl hinit

end Sys2Proof.Machine
end

section
/-! PROOF. One wheel's advance, a bank's advance and its period, and the block's. -/

namespace Sys2Proof.Machine

/-! ## One wheel -/

/-- `ADV_W(w)` moves wheel `w`, when it has a length, by one modulo that length (40_rotor_position_register.md R70). -/
theorem advWheel_pos_get_toNat {s : State} {w : WheelNo} (h : s.kl.get w ≠ 0) :
    ((advWheel w s).pos.get w).toNat = ((s.pos.get w).toNat + 1) % (s.kl.get w).toNat := by
  rw [advWheel_pos_get, if_pos rfl, advancedPosition_toNat h]

/-! ## A bank -/

/-- The wheels of a bank in the order of its advance. -/
def Bank.wheels (b : Bank) : List WheelNo := bankMembers.map b.wheel

/-- The wheels of a bank are the five from its base on (10_state.md R22). -/
theorem Bank.mem_wheels (b : Bank) (w : WheelNo) : w ∈ b.wheels ↔ b.base ≤ w.val ∧ w.val < b.base + 5 := by
  revert w
  cases b <;> decide

/-- A bank holds no wheel twice. -/
theorem Bank.nodup_wheels (b : Bank) : b.wheels.Nodup := by
  cases b <;> decide

/-- Every member of a bank is one of its wheels. -/
theorem Bank.wheel_mem_wheels (b : Bank) (i : Fin 5) : b.wheel i ∈ b.wheels := by
  rw [b.mem_wheels, b.wheel_val]
  omega

/-- `ADV_BANK` is the single advances of the bank's wheels. -/
theorem advBank_eq_foldl (b : Bank) (s : State) : advBank b s = b.wheels.foldl (fun t w => advWheel w t) s := rfl

/-- Single advances of different wheels move each of them once, from where it stood, and no other wheel: their order has
no effect (40_rotor_position_register.md R71). -/
theorem foldl_advWheel_pos_get {ws : List WheelNo} (hnodup : ws.Nodup) (w : WheelNo) (s : State) :
    (ws.foldl (fun t v => advWheel v t) s).pos.get w = if w ∈ ws then advancedPosition w s else s.pos.get w := by
  induction ws generalizing s with
  | nil => rfl
  | cons v ws ih =>
    obtain ⟨hv, hws⟩ := List.nodup_cons.mp hnodup
    rw [List.foldl_cons, ih hws]
    by_cases hvw : v = w
    · subst hvw
      rw [if_neg hv, advWheel_pos_get, if_pos rfl, if_pos List.mem_cons_self]
    · rw [advancedPosition_advWheel hvw, advWheel_pos_get, if_neg hvw]
      simp only [List.mem_cons, Ne.symm hvw, false_or]

/-- `ADV_BANK` takes the wheels of the bank to their advanced positions and holds the others. -/
theorem advBank_pos_get (b : Bank) (w : WheelNo) (s : State) :
    (advBank b s).pos.get w = if w ∈ b.wheels then advancedPosition w s else s.pos.get w :=
  foldl_advWheel_pos_get b.nodup_wheels w s

@[simp] theorem advBank_kl (b : Bank) (s : State) : (advBank b s).kl = s.kl := rfl

/-- `ADV_BANK` moves a wheel of the bank, when it has a length, by one modulo that length
(40_rotor_position_register.md R70, R71). -/
theorem advBank_pos_get_toNat {b : Bank} {s : State} {w : WheelNo} (hw : w ∈ b.wheels) (h : s.kl.get w ≠ 0) :
    ((advBank b s).pos.get w).toNat = ((s.pos.get w).toNat + 1) % (s.kl.get w).toNat := by
  rw [advBank_pos_get, if_pos hw, advancedPosition_toNat h]

/-- `ADV_BANK` holds every wheel that is not of the bank. -/
theorem advBank_pos_get_of_notMem {b : Bank} {w : WheelNo} (hw : w ∉ b.wheels) (s : State) :
    (advBank b s).pos.get w = s.pos.get w := by
  rw [advBank_pos_get, if_neg hw]

/-- A bank's advance keeps the component range. -/
theorem WheelsInRange.advBank {s : State} (h : WheelsInRange s) (b : Bank) : WheelsInRange (advBank b s) := by
  intro w
  obtain ⟨hlow, hhigh, hpos⟩ := h w
  refine ⟨hlow, hhigh, ?_⟩
  rw [advBank_kl]
  by_cases hw : w ∈ b.wheels
  · rw [advBank_pos_get_toNat hw (h.kl_ne_zero w)]
    exact Nat.mod_lt _ hlow
  · rw [advBank_pos_get_of_notMem hw]
    exact hpos

/-! ## The period of a bank -/

/-- `n` advances of a bank move each of its wheels by `n`, modulo its length. -/
theorem iterate_advBank_pos_get_toNat {b : Bank} {s : State} {w : WheelNo} (h : WheelsInRange s) (n : Nat)
    (hw : w ∈ b.wheels) :
    (((advBank b)^[n] s).pos.get w).toNat = ((s.pos.get w).toNat + n) % (s.kl.get w).toNat := by
  induction n generalizing s with
  | zero => exact (Nat.mod_eq_of_lt (h w).2.2).symm
  | succ n ih =>
    rw [Function.iterate_succ_apply, ih (h.advBank b), advBank_kl, advBank_pos_get_toNat hw (h.kl_ne_zero w),
      succ_mod_add_mod]

/-- A wheel of a bank is back after `n` advances exactly when its length divides `n` (40_rotor_position_register.md
R74). -/
theorem iterate_advBank_pos_get_eq_iff {b : Bank} {s : State} {w : WheelNo} (h : WheelsInRange s) (n : Nat)
    (hw : w ∈ b.wheels) : ((advBank b)^[n] s).pos.get w = s.pos.get w ↔ (s.kl.get w).toNat ∣ n := by
  rw [← BitVec.toNat_inj, iterate_advBank_pos_get_toNat h n hw, add_mod_eq_self_iff_dvd (h w).2.2]

/-- The wheels of 95_test_vectors.md V-L1-5, of lengths 3 and 5, at position 0; the S-bank has the lengths of the X-bank
and zero patterns. -/
def coincidingBank : State :=
  loadKey
    { lengths := #v[3, 5, 3, 5, 3, 3, 5, 3, 5, 3]
      patterns := #v[0b001, 0b01011, 0b110, 0b11000, 0b010, 0, 0, 0, 0, 0]
      indicators := Vector.replicate 10 0 } State.reset

/-- The wheels of V-L1-5 are in the component range. -/
theorem wheelsInRange_coincidingBank : WheelsInRange coincidingBank := by
  unfold WheelsInRange
  decide

/-- The X-bank of V-L1-5 has its first value again after 6 advances, while wheel 1 is not back. -/
theorem coincidingBank_value_back :
    bankValue .x ((advBank .x)^[6] coincidingBank) = bankValue .x coincidingBank ∧
      ((advBank .x)^[6] coincidingBank).pos.get (Bank.x.wheel 1) ≠ coincidingBank.pos.get (Bank.x.wheel 1) := by
  decide

/-! ## Settled: the advance of a wheel and of a bank, and the periods -/

/-- Settles O21: the two cases of R73 are the remainder's, at the length and below it. -/
theorem wheelAdvancesModuloLength : Obligations.WheelAdvancesModuloLength := by
  intro s w h
  have hmod := advWheel_pos_get_toNat h
  have hlength : 0 < (s.kl.get w).toNat := Nat.pos_of_ne_zero fun h0 => h (BitVec.eq_of_toNat_eq h0)
  refine ⟨hmod, ?_, fun hlast => ?_, fun hbelow => ?_, fun v hv => ?_, rfl⟩
  · rw [hmod]
    exact Nat.mod_lt _ hlength
  · rw [hlast, Nat.mod_self] at hmod
    exact BitVec.eq_of_toNat_eq hmod
  · rw [hmod, Nat.mod_eq_of_lt hbelow]
  · rw [advWheel_pos_get, if_neg (Ne.symm hv)]

/-- Settles O22: wheels 0 to 4 are those of the X-bank, wheels 5 to 9 those of the S-bank. -/
theorem banksAdvanceInLockStep : Obligations.BanksAdvanceInLockStep := by
  intro s w h
  have hx : w ∈ Bank.x.wheels ↔ w.val < 5 := by simp [Bank.mem_wheels, Bank.base]
  have hs : w ∈ Bank.s.wheels ↔ 5 ≤ w.val := by simp [Bank.mem_wheels, Bank.base, w.isLt]
  refine ⟨advAll_pos_get_toNat h, fun hw => ⟨?_, ?_⟩, fun hw => ⟨?_, ?_⟩⟩
  · exact advBank_pos_get_toNat (hx.mpr hw) h
  · exact advBank_pos_get_of_notMem (fun hmem => absurd (hs.mp hmem) (by omega)) s
  · exact advBank_pos_get_toNat (hs.mpr hw) h
  · exact advBank_pos_get_of_notMem (fun hmem => absurd (hx.mp hmem) (by omega)) s

/-- Settles O25: wheels are back exactly when each length divides the number of advances, which their least common
multiple does then; the bank of V-L1-5 has its value back earlier. -/
theorem advancePeriodIsLcm : Obligations.AdvancePeriodIsLcm := by
  refine ⟨fun s h => ⟨fun b n => ?_, fun n => ?_⟩, coincidingBank, .x, 6, wheelsInRange_coincidingBank, by decide,
    coincidingBank_value_back.1, 1, coincidingBank_value_back.2⟩
  · simp only [iterate_advBank_pos_get_eq_iff h n (b.wheel_mem_wheels _), Finset.lcm_dvd_iff, Finset.mem_univ,
      forall_true_left]
  · simp only [iterate_advAll_pos_eq_iff h, Finset.lcm_dvd_iff, Finset.mem_univ, forall_true_left]

end Sys2Proof.Machine
end

section
/-! PROOF. A bank value as the sum of the pattern bits at its members' positions. -/

namespace Sys2Proof.Machine

/-! ## The wheels of the two banks -/

/-- Member `i` of the X-bank is wheel `i` (10_state.md R22). -/
theorem Bank.wheel_x (i : Fin 5) : Bank.x.wheel i = i.castLE (by decide) :=
  Fin.ext ((Bank.wheel_val .x i).trans (Nat.zero_add _))

/-- Member `i` of the S-bank is wheel `5 + i` (10_state.md R22). -/
theorem Bank.wheel_s (i : Fin 5) : Bank.s.wheel i = i.natAdd 5 :=
  Fin.ext (Bank.wheel_val .s i)

/-! ## The bits of a bank value -/

/-- The low `n` bits of a number are the sum of its bits, each shifted to its place. -/
theorem mod_two_pow_eq_sum_testBit (x n : Nat) : x % 2 ^ n = ∑ i : Fin n, (x.testBit i.val).toNat <<< i.val := by
  induction n with
  | zero => simp [Nat.mod_one]
  | succ n ih =>
    rw [Fin.sum_univ_castSucc, Nat.mod_pow_succ, ih, ← Nat.toNat_testBit, Nat.mul_comm, ← Nat.shiftLeft_eq]
    simp only [Fin.val_castSucc, Fin.val_last]

/-- A word is the sum of its bits, each shifted to its place (00_scope.md R8). -/
theorem toNat_eq_sum_getLsbD {n : Nat} (v : BitVec n) :
    v.toNat = ∑ i : Fin n, (v.getLsbD i.val).toNat <<< i.val :=
  (Nat.mod_eq_of_lt v.isLt).symm.trans (mod_two_pow_eq_sum_testBit v.toNat n)

/-- In the component range the current bit is the pattern bit at the position, not a free value: a position below a length
of at most 73 is below 73 (41_wheel_bank_combiner.md R90). -/
theorem WheelsInRange.currentBit_eq {s : State} (h : WheelsInRange s) (w : WheelNo) :
    currentBit w s = (s.kp.get w).getLsbD (s.pos.get w).toNat := by
  obtain ⟨-, hhigh, hpos⟩ := h w
  exact Machine.currentBit_eq hpos (by omega)

/-- In the component range bit `i` of a bank value is the pattern bit at the position of member `i`. -/
theorem WheelsInRange.bankValue_getLsbD {s : State} (h : WheelsInRange s) (b : Bank) (i : Fin 5) :
    (bankValue b s).getLsbD i.val = (s.kp.get (b.wheel i)).getLsbD (s.pos.get (b.wheel i)).toNat := by
  rw [Machine.bankValue_getLsbD, h.currentBit_eq]

/-! ## Settled: the bank values -/

/-- Settles O23: bit `i` by the wheel that member `i` is, in either bank; the value as the sum of its bits. -/
theorem bankValueCombinesCurrentBits : Obligations.BankValueCombinesCurrentBits := by
  intro s h
  refine ⟨fun i => ?_, fun i => ?_, fun b => ?_⟩
  · rw [h.bankValue_getLsbD, Bank.wheel_x]
  · rw [h.bankValue_getLsbD, Bank.wheel_s]
  · simp only [toNat_eq_sum_getLsbD (bankValue b s), h.bankValue_getLsbD]

end Sys2Proof.Machine
end

-- Proofs of the statements of 42_permutation_network_xor_stage.md.
section
/-! PROOF. The swap stages and the networks as permutations of bit positions, ENC, and streams of ENC. -/

namespace Sys2Proof.Machine

/-! ## A swap as a permutation of bit positions -/

/-- A swap reads every bit at the place the transposition of the two positions gives. -/
theorem swapBits_getLsbD_swap (v : CodeUnit) (a b i : Fin 5) :
    (swapBits v a b).getLsbD i.val = v.getLsbD (Equiv.swap a b i).val := by
  rw [swapBits_getLsbD, Equiv.swap_apply_def]
  split_ifs <;> rfl

/-- Swapping two bits of an assembled value is assembling the bits in the other order. -/
theorem swapBits_assembleBits (p : Fin 5 → Bool) (a b : Fin 5) :
    swapBits (assembleBits p) a b = assembleBits fun i => p (Equiv.swap a b i) :=
  codeUnit_ext fun i => by rw [swapBits_getLsbD_swap, assembleBits_getLsbD, assembleBits_getLsbD]

/-- Swapping two bits of a positional value, where `p_j` is bit `4 - j` (00_scope.md R9). -/
theorem swapBits_fromPositional (p : Fin 5 → Bool) (a b : Fin 5) :
    swapBits (fromPositional (p 4) (p 3) (p 2) (p 1) (p 0)) a b =
      fromPositional (p (Equiv.swap a b 4)) (p (Equiv.swap a b 3)) (p (Equiv.swap a b 2)) (p (Equiv.swap a b 1))
        (p (Equiv.swap a b 0)) :=
  swapBits_assembleBits p a b

/-! ## A map that moves the bits of a value by a permutation -/

/-- `w` has bit `i` of `v` at the place `p i`. -/
def BitsMoved (p : Equiv.Perm (Fin 5)) (v w : CodeUnit) : Prop :=
  ∀ i : Fin 5, w.getLsbD (p i).val = v.getLsbD i.val

/-- Moving no bit. -/
theorem BitsMoved.refl (v : CodeUnit) : BitsMoved 1 v v := fun _ => rfl

/-- Moving the bits twice is moving them by the product of the two permutations. -/
theorem BitsMoved.trans {p q : Equiv.Perm (Fin 5)} {u v w : CodeUnit} (h : BitsMoved p u v) (h' : BitsMoved q v w) :
    BitsMoved (q * p) u w :=
  fun i => (h' (p i)).trans (h i)

section
variable {p : Equiv.Perm (Fin 5)} {v w : CodeUnit}

/-- A value whose bits are all alike stays. -/
theorem BitsMoved.eq_of_const (h : BitsMoved p v w) {b : Bool} (hv : ∀ i : Fin 5, v.getLsbD i.val = b) : w = v := by
  refine codeUnit_ext fun i => ?_
  obtain ⟨j, rfl⟩ := p.surjective i
  rw [h j, hv, hv]

/-- The number of one bits is kept. -/
theorem BitsMoved.ones_eq (h : BitsMoved p v w) :
    ((List.finRange 5).filter fun i => w.getLsbD i.val).length =
      ((List.finRange 5).filter fun i => v.getLsbD i.val).length := by
  have hbits : (fun i : Fin 5 => v.getLsbD i.val) = (fun i => w.getLsbD i.val) ∘ p := funext fun i => (h i).symm
  rw [← List.countP_eq_length_filter, ← List.countP_eq_length_filter, hbits, ← List.countP_map]
  exact (p.map_finRange_perm.countP_eq _).symm

/-- Moving the bits of every value by one permutation is a bijection. -/
theorem bijective_of_bitsMoved {f : CodeUnit → CodeUnit} (h : ∀ v, BitsMoved p v (f v)) : Function.Bijective f := by
  refine ⟨fun v v' heq => codeUnit_ext fun i => ?_, fun w => ⟨assembleBits fun i => w.getLsbD (p i).val, ?_⟩⟩
  · rw [← h v i, ← h v' i, heq]
  · refine codeUnit_ext fun i => ?_
    obtain ⟨j, rfl⟩ := p.surjective i
    rw [h _ j, assembleBits_getLsbD]

end

/-- A swap moves the bits by the transposition of its two positions. -/
theorem swapBits_bitsMoved (v : CodeUnit) (a b : Fin 5) : BitsMoved (Equiv.swap a b) v (swapBits v a b) :=
  fun i => by rw [swapBits_getLsbD_swap, Equiv.swap_apply_self]

/-! ## The stages -/

/-- The two bit positions that stage `SWk` exchanges (R101 to R105). -/
def stagePair : Fin 5 → Fin 5 × Fin 5
  | 0 => (4, 3)
  | 1 => (3, 2)
  | 2 => (2, 1)
  | 3 => (1, 0)
  | 4 => (4, 0)

/-- Every stage is one gated swap: gate `s[k]`, and the stage's own two positions. -/
theorem swapStage_eq (k : Fin 5) (v s : CodeUnit) :
    swapStage k v s = if s.getLsbD k.val then swapBits v (stagePair k).1 (stagePair k).2 else v := by
  fin_cases k <;> rfl

/-- The permutation of bit positions that stage `SWk` is, for one `s`. -/
def stagePerm (s : CodeUnit) (k : Fin 5) : Equiv.Perm (Fin 5) :=
  if s.getLsbD k.val then Equiv.swap (stagePair k).1 (stagePair k).2 else 1

/-- A stage moves every bit to the place its permutation gives. -/
theorem swapStage_bitsMoved (k : Fin 5) (v s : CodeUnit) : BitsMoved (stagePerm s k) v (swapStage k v s) := by
  rw [swapStage_eq, stagePerm]
  split_ifs
  · exact swapBits_bitsMoved v _ _
  · exact .refl v

/-! ## A network: stages in some order -/

/-- The permutation of bit positions that a network with its stages in the order `ks` is, for one `s`. -/
def networkPerm (s : CodeUnit) : List (Fin 5) → Equiv.Perm (Fin 5)
  | [] => 1
  | k :: ks => networkPerm s ks * stagePerm s k

/-- A network moves every bit to the place its permutation gives, whatever the value. -/
theorem network_bitsMoved (ks : List (Fin 5)) (v s : CodeUnit) :
    BitsMoved (networkPerm s ks) v (ks.foldl (fun t k => swapStage k t s) v) := by
  induction ks generalizing v with
  | nil => exact .refl v
  | cons k ks ih => exact (swapStage_bitsMoved k v s).trans (ih _)

/-- With `s = 0` every gate is clear, so a network passes the value through (R110, R125). -/
theorem network_zero (ks : List (Fin 5)) (v : CodeUnit) : ks.foldl (fun t k => swapStage k t 0) v = v := by
  induction ks with
  | nil => rfl
  | cons k ks ih => rw [List.foldl_cons, swapStage_eq, if_neg (by simp), ih]

/-! ## The forward network and its table -/

/-- `π_s` of R108: the permutation of the forward network. -/
def forwardPerm (s : CodeUnit) : Equiv.Perm (Fin 5) := networkPerm s [4, 3, 2, 1, 0]

/-- FWD moves the bits of every value by `π_s`. -/
theorem fwd_bitsMoved (v s : CodeUnit) : BitsMoved (forwardPerm s) v (fwd v s) :=
  network_bitsMoved [4, 3, 2, 1, 0] v s

/-- The document's table holds `π_s` in row `s`. -/
theorem tableEntry_forwardTable (s : CodeUnit) (k : Fin 5) :
    tableEntry forwardTable s k = (forwardPerm s k).val := by
  revert s k
  decide

/-- Row `s` of the forward table. -/
def forwardRow (s : CodeUnit) : List Nat := List.ofFn (tableEntry forwardTable s)

/-- Two rows are equal exactly when their entries are. -/
theorem forwardRow_eq_iff {s s' : CodeUnit} :
    forwardRow s = forwardRow s' ↔ ∀ k : Fin 5, tableEntry forwardTable s k = tableEntry forwardTable s' k :=
  List.ofFn_injective.eq_iff.trans funext_iff

/-- Every row stands in the table first at its own number, but for rows 30 and 31, which stand at 15 and 14 already. -/
theorem idxOf_forwardRow (s : CodeUnit) :
    forwardTable.idxOf (forwardRow s) = if s = 31 then 14 else if s = 30 then 15 else s.toNat := by
  revert s
  decide

/-- The only equal rows are 14 and 31, and 15 and 30 (R108). -/
theorem forwardRow_eq_iff_of_lt {s s' : CodeUnit} (hlt : s.toNat < s'.toNat) :
    forwardRow s = forwardRow s' ↔ (s = 14 ∧ s' = 31) ∨ (s = 15 ∧ s' = 30) := by
  constructor
  · intro heq
    have hidx := congrArg forwardTable.idxOf heq
    rw [idxOf_forwardRow, idxOf_forwardRow] at hidx
    split_ifs at hidx <;> bv_omega
  · rintro (⟨rfl, rfl⟩ | ⟨rfl, rfl⟩) <;> rfl

/-! ## Settled: the stages and the forward network -/

/-- Settles O27: the swap of each stage, on the positional bits. -/
theorem swapStagesPositional : Obligations.SwapStagesPositional := by
  intro p0 p1 p2 p3 p4 s
  have hswap := swapBits_fromPositional ![p4, p3, p2, p1, p0]
  exact ⟨if_congr .rfl (hswap 4 0) rfl, if_congr .rfl (hswap 1 0) rfl, if_congr .rfl (hswap 2 1) rfl,
    if_congr .rfl (hswap 3 2) rfl, if_congr .rfl (hswap 4 3) rfl⟩

/-- Settles O28: each network is a fold over its list of stages, which unfolds to the composition. -/
theorem networksComposeStages : Obligations.NetworksComposeStages :=
  fun _ _ => ⟨rfl, rfl⟩

/-- Settles O29: with the gate set the same swap is done twice, with it clear nothing is done. -/
theorem swapStagesAreInvolutions : Obligations.SwapStagesAreInvolutions := by
  intro k v s
  rw [swapStage_eq, swapStage_eq]
  split_ifs
  · exact swapBits_swapBits v _ _
  · rfl

/-- Settles O30: FWD moves the bits by `π_s`, and the table lists `π_s`. -/
theorem forwardNetworkPermutesBits : Obligations.ForwardNetworkPermutesBits := by
  refine ⟨fun s => ⟨⟨forwardPerm s, fun k => ⟨tableEntry_forwardTable s k, fun v => fwd_bitsMoved v s k⟩⟩,
    fun v => (fwd_bitsMoved v s).ones_eq, ?_, ?_, network_zero _, bijective_of_bitsMoved fun v => fwd_bitsMoved v s⟩,
    fun s s' hlt => forwardRow_eq_iff.symm.trans (forwardRow_eq_iff_of_lt hlt)⟩
  · exact (fwd_bitsMoved 0 s).eq_of_const (b := false) (by decide)
  · exact (fwd_bitsMoved 31 s).eq_of_const (b := true) (by decide)

/-! ## ENC and DEC as unit commands -/

/-- ENC is a unit command with the encrypting datapath (R109). -/
theorem exec_enc (data : DataField) (s : State) : exec (.enc data) s = .next (processUnit encryptUnit data s) := rfl

/-- DEC is a unit command with the decrypting datapath (43_inverse_permutation_network.md R122). -/
theorem exec_dec (data : DataField) (s : State) : exec (.dec data) s = .next (processUnit decryptUnit data s) := rfl

/-- A DATA field of at most 31 carries its low five bits (30_encoding.md R57). -/
theorem eq_unitData_setWidth {data : DataField} (h : data.toNat ≤ 31) : data = unitData (data.setWidth 5) := by
  refine BitVec.eq_of_toNat_eq ?_
  simp only [unitData, BitVec.toNat_setWidth]
  omega

/-- ENC and DEC with DATA of at most 31, on an initialised block (R109). -/
theorem processUnit_of_le (f : CodeUnit → CodeUnit → CodeUnit → CodeUnit) {data : DataField} {s : State}
    (hi : s.initDone = true) (hd : data.toNat ≤ 31) :
    processUnit f data s = respond .ok (f (data.setWidth 5) (bankValue .x s) (bankValue .s s)) (advAll s) := by
  have hunit := processUnit_unitData f (data.setWidth 5) hi
  rwa [← eq_unitData_setWidth hd] at hunit

/-- A response after the advance writes the positions and the response, and nothing else. -/
theorem respond_advAll (st : Status) (d : CodeUnit) (s : State) :
    respond st d (advAll s) =
      { s with pos := (advAll s).pos, outputs := s.outputs ++ [HostOutput.response (responseWord st d)] } := by
  simp only [respond, advAll_kl, advAll_kp, advAll_initDone, advAll_keyPort, advAll_keyStable, advAll_inputs,
    advAll_outputs, advAll_freeIndex]

/-- With `s = 0` ENC is the XOR alone (R110). -/
theorem encryptUnit_zero (u x : CodeUnit) : encryptUnit u x 0 = u ^^^ x := network_zero _ _

/-- With `s = 0` DEC is the XOR alone (43_inverse_permutation_network.md R125). -/
theorem decryptUnit_zero (u x : CodeUnit) : decryptUnit u x 0 = u ^^^ x :=
  congrArg (xorStage · x) (network_zero _ u)

/-- A unit command on an initialised block responds its datapath's unit. -/
theorem processUnit_outputs (f : CodeUnit → CodeUnit → CodeUnit → CodeUnit) (u : CodeUnit) {s : State}
    (hi : s.initDone = true) :
    (processUnit f (unitData u) s).outputs =
      s.outputs ++ [HostOutput.response ((f u (bankValue .x s) (bankValue .s s)).setWidth 8)] := by
  rw [processUnit_unitData f u hi, respond_outputs, advAll_outputs, responseWord_ok]

/-! ## Settled: ENC and DEC on one unit -/

/-- Settles O33, by the two checks of a unit command. -/
theorem encEncryptsOneUnit : Obligations.EncEncryptsOneUnit := by
  intro s data
  refine ⟨fun hi => ?_, fun hi hd => ?_, fun hi hd => ⟨_, exec_enc data s, ?_⟩⟩
  · rw [exec_enc, processUnit_of_not_initDone _ _ hi]
    rfl
  · rw [exec_enc, processUnit_of_large _ hi hd]
    rfl
  · rw [processUnit_of_le _ hi hd, respond_advAll, responseWord_ok]
    exact ⟨rfl, fun w hw => advAll_pos_get_toNat hw⟩

/-- Settles O35: neither ENC nor DEC is INIT, and an OK response has STATUS 000. -/
theorem unitCommandFrame : Obligations.UnitCommandFrame := by
  intro s t data h
  obtain ⟨i, hne, hexec⟩ : ∃ i : Instr, i ≠ .init ∧ exec i s = .next t :=
    h.elim (fun henc => ⟨_, by simp, henc⟩) (fun hdec => ⟨_, by simp, hdec⟩)
  rcases exec_next_cases hexec with ⟨e, rfl⟩ | ⟨hinit, -⟩ | ⟨-, -, c, rfl⟩
  · exact ⟨rfl, rfl, rfl, rfl, rfl, rfl, rfl, _, rfl, fun _ => rfl⟩
  · exact absurd hinit hne
  · rw [respond_advAll]
    exact ⟨rfl, rfl, rfl, rfl, rfl, rfl, rfl, _, rfl, fun herr => absurd (responseWord_ok_status c) herr⟩

/-- Settles O37: with every gate clear both datapaths are the XOR with `x`. -/
theorem identityWithoutPermutation : Obligations.IdentityWithoutPermutation := by
  intro s u hi hs
  have henc := processUnit_outputs encryptUnit u hi
  have hdec := processUnit_outputs decryptUnit u hi
  rw [hs, encryptUnit_zero] at henc
  rw [hs, decryptUnit_zero] at hdec
  refine ⟨⟨_, exec_enc _ s, henc⟩, ⟨_, exec_dec _ s, hdec⟩, fun hx => ⟨_, exec_enc _ s, ?_⟩⟩
  rwa [hx, show u ^^^ 0 = u from BitVec.xor_zero] at henc

/-! ## Streams of ENC -/

/-- What an engine that starts as `s` answers to unit `u` at place `n` of a stream: the bank values are those of `n`
advances, whatever the other units are (R111). -/
def encAnswer (s : State) (n : Nat) (u : CodeUnit) : CodeUnit :=
  encryptUnit u (bankValue .x (advAll^[n] s)) (bankValue .s (advAll^[n] s))

/-- In the component range the bank values are a function of the block. -/
theorem SameBlock.bankValue_eq {s t : State} (h : SameBlock s t) (hrange : WheelsInRange s) (b : Bank) :
    bankValue b t = bankValue b s := by
  obtain ⟨hpos, hkl, hkp, -⟩ := h
  exact bankValue_congr hrange hpos.symm hkl.symm (hkp ▸ .refl s) b

/-- In the component range the advance is a function of the block. -/
theorem SameBlock.advAll {s t : State} (h : SameBlock s t) (hrange : WheelsInRange s) :
    SameBlock (advAll s) (advAll t) := by
  obtain ⟨hpos, hkl, hkp, hinit⟩ := h
  exact ⟨advAll_pos_congr_of_lengths hpos hkl (hkl ▸ hrange.kl_ne_zero), by simp [hkl], by simp [hkp],
    by simp [hinit]⟩

/-- Agreement on the block is symmetric. -/
theorem SameBlock.symm {s t : State} (h : SameBlock s t) : SameBlock t s := by
  obtain ⟨hpos, hkl, hkp, hinit⟩ := h
  exact ⟨hpos.symm, hkl.symm, hkp.symm, hinit.symm⟩

/-- Agreement on the block carries over a chain of states. -/
theorem SameBlock.trans {s t u : State} (h : SameBlock s t) (h' : SameBlock t u) : SameBlock s u := by
  obtain ⟨hpos, hkl, hkp, hinit⟩ := h
  obtain ⟨hpos', hkl', hkp', hinit'⟩ := h'
  exact ⟨hpos.trans hpos', hkl.trans hkl', hkp.trans hkp', hinit.trans hinit'⟩

/-- One ENC of a stream, on any state whose block is that of `b`: the answer and the next block are those of `b`. -/
theorem step_encInput {b s : State} (same : SameBlock b s) (hrange : WheelsInRange b) (hi : b.initDone = true)
    {u : CodeUnit} {rest : List HostInput} (hin : s.inputs = encInput (unitData u) :: rest) :
    ∃ t, step s = .next t ∧ t.inputs = rest ∧
      t.outputs = s.outputs ++ [HostOutput.response ((encAnswer b 0 u).setWidth 8)] ∧ SameBlock (advAll b) t := by
  have hsame : SameBlock b (setKeyStable true (takeInput rest s)) := same
  have hi' : (setKeyStable true (takeInput rest s)).initDone = true := by
    obtain ⟨-, -, -, hinit⟩ := hsame
    exact hinit.symm.trans hi
  have hanswer : processUnit encryptUnit (unitData u) (setKeyStable true (takeInput rest s)) =
      respond .ok (encAnswer b 0 u) (advAll (setKeyStable true (takeInput rest s))) := by
    rw [processUnit_unitData encryptUnit u hi', hsame.bankValue_eq hrange, hsame.bankValue_eq hrange]
    rfl
  have hstep : step s = .next (processUnit encryptUnit (unitData u) (setKeyStable true (takeInput rest s))) :=
    (step_cons hin).trans ((issueCommand_of_decode (decode_encWord _)).trans (exec_enc _ _))
  refine ⟨_, hanswer ▸ hstep, by simp, by simp [responseWord_ok], ?_⟩
  exact (hsame.advAll hrange).trans (.respond _ _ _)

/-- A stream of ENC runs to its end; its answers and the block it leaves are those of the block it began with. -/
theorem run_encInputs (us : List CodeUnit) {b s : State} (same : SameBlock b s) (hrange : WheelsInRange b)
    (hi : b.initDone = true) (hin : s.inputs = us.map fun u => encInput (unitData u)) :
    ∃ t, core.run us.length s = .next t ∧
      t.outputs = s.outputs ++ (us.mapIdx (encAnswer b)).map (fun c => HostOutput.response (c.setWidth 8)) ∧
      SameBlock (advAll^[us.length] b) t := by
  induction us generalizing b s with
  | nil => exact ⟨s, run_zero s, (List.append_nil _).symm, same⟩
  | cons u us ih =>
    obtain ⟨s', hstep, hin', hout, same'⟩ := step_encInput same hrange hi hin
    obtain ⟨t, hrun, houts, hend⟩ := ih same' hrange.advAll (by simp [hi]) hin'
    refine ⟨t, (run_succ hstep).trans hrun, ?_, hend⟩
    rw [houts, hout, List.mapIdx_cons, List.map_cons, List.append_assoc]
    rfl

/-- Settles O40: the answer at a place is a function of the unit there and the block the stream began with. -/
theorem streamOutputDependsOnItsUnit : Obligations.StreamOutputDependsOnItsUnit := by
  intro s us us' hready hlen
  have hrange : WheelsInRange s := .of_engineReady hready
  have hrun : ∀ vs : List CodeUnit, _ := fun vs =>
    run_encInputs vs (s := { s with inputs := vs.map fun u => encInput (unitData u) }) (.refl s) hrange hready.1 rfl
  obtain ⟨t, ht, hout, hend⟩ := hrun us
  obtain ⟨t', ht', hout', hend'⟩ := hrun us'
  rw [← hlen] at hend'
  refine ⟨t, t', _, _, ht, ht', hout, hout', List.length_mapIdx, List.length_mapIdx, fun i hi => ?_,
    hend.symm.trans hend'⟩
  rw [List.getElem?_mapIdx, List.getElem?_mapIdx, hi]

end Sys2Proof.Machine
end

-- Proofs of the statements of 43_inverse_permutation_network.md.
section
/-! PROOF. The inverse network and its table, DEC, and the round trip of a unit and of a stream. -/

namespace Sys2Proof.Machine

/-! ## The two networks undo each other -/

/-- A network whose stages run in the reverse order undoes the network, because each stage undoes itself (R123). -/
theorem network_reverse (ks : List (Fin 5)) (v s : CodeUnit) :
    ks.reverse.foldl (fun t k => swapStage k t s) (ks.foldl (fun t k => swapStage k t s) v) = v := by
  induction ks generalizing v with
  | nil => rfl
  | cons k ks ih =>
    rw [List.reverse_cons, List.foldl_append, List.foldl_cons (l := ks), ih]
    exact swapStagesAreInvolutions k v s

/-- INV undoes FWD (R123). -/
theorem inv_fwd (v s : CodeUnit) : inv (fwd v s) s = v := network_reverse [4, 3, 2, 1, 0] v s

/-- FWD undoes INV (R123). -/
theorem fwd_inv (v s : CodeUnit) : fwd (inv v s) s = v := network_reverse [0, 1, 2, 3, 4] v s

/-- DEC's datapath undoes ENC's, with the same bank values (R124). -/
theorem decryptUnit_encryptUnit (u x s : CodeUnit) : decryptUnit (encryptUnit u x s) x s = u := by
  rw [decryptUnit, encryptUnit, inv_fwd, xorStage, xorStage, BitVec.xor_assoc, BitVec.xor_self, BitVec.xor_zero]

/-! ## The inverse network and its table -/

/-- Moving the bits back is moving them by the inverse permutation. -/
theorem BitsMoved.symm {p : Equiv.Perm (Fin 5)} {v w : CodeUnit} (h : BitsMoved p v w) : BitsMoved p.symm w v :=
  fun i => by rw [← h, Equiv.apply_symm_apply]

/-- INV moves the bits of every value by the inverse of `π_s`. -/
theorem inv_bitsMoved (v s : CodeUnit) : BitsMoved (forwardPerm s).symm v (inv v s) := by
  have hforward := fwd_bitsMoved (inv v s) s
  rw [fwd_inv] at hforward
  exact hforward.symm

/-- The document's inverse table holds the inverse of `π_s` in row `s` (R128). -/
theorem tableEntry_inverseTable (s : CodeUnit) (k : Fin 5) :
    tableEntry inverseTable s k = ((forwardPerm s).symm k).val := by
  revert s k
  decide

/-! ## Settled: the inverse network -/

/-- Settles O32: INV has the stages of FWD in the reverse order. -/
theorem networksAreInverse : Obligations.NetworksAreInverse :=
  fun v s => ⟨inv_fwd v s, fwd_inv v s⟩

/-- Settles O31: INV moves the bits by the inverse of `π_s`, and the two tables list `π_s` and its inverse. -/
theorem inverseNetworkFollowsTable : Obligations.InverseNetworkFollowsTable := by
  intro s k
  refine ⟨fun v => ?_, forwardPerm s k, tableEntry_forwardTable s k, ?_⟩
  · rw [tableEntry_inverseTable]
    exact inv_bitsMoved v s k
  · rw [tableEntry_inverseTable, Equiv.symm_apply_apply]

/-! ## Settled: DEC on one unit -/

/-- Settles O34, by the two checks of a unit command; what is left of DEC is its datapath. -/
theorem decDecryptsOneUnit : Obligations.DecDecryptsOneUnit := by
  intro s data
  simp only [exec_dec]
  refine ⟨fun hi => ?_, fun hi hd => ?_, fun hi hd => ⟨_, rfl, ?_⟩⟩
  · rw [processUnit_of_not_initDone _ _ hi]
    rfl
  · rw [processUnit_of_large _ hi hd]
    rfl
  · rw [processUnit_of_le _ hi hd, respond_advAll, responseWord_ok]
    exact ⟨rfl, fun w hw => advAll_pos_get_toNat hw⟩

/-! ## What an engine answers to a unit -/

/-- What an engine that starts as `b` answers to the `n`-th legal unit of a stream (from 0), for a unit command with the
datapath `f`: rejected DATA fields do not count, because they do not advance (R126). -/
def unitAnswer (f : CodeUnit → CodeUnit → CodeUnit → CodeUnit) (b : State) (n : Nat) (u : CodeUnit) : CodeUnit :=
  f u (bankValue .x (advAll^[n] b)) (bankValue .s (advAll^[n] b))

/-- At every place of the stream DEC's answer undoes ENC's. -/
theorem unitAnswer_decrypt_encrypt (b : State) (n : Nat) (u : CodeUnit) :
    unitAnswer decryptUnit b n (unitAnswer encryptUnit b n u) = u :=
  decryptUnit_encryptUnit u _ _

/-! ## A unit command on one of two blocks in the same state -/

section
variable {b s : State} (same : SameBlock b s) (hrange : WheelsInRange b)
include same hrange

/-- The answer of a unit command is a function of the block (R124). -/
theorem SameBlock.processUnit_unitData (hi : b.initDone = true) (f : CodeUnit → CodeUnit → CodeUnit → CodeUnit)
    (u : CodeUnit) :
    processUnit f (unitData u) s = Machine.respond .ok (unitAnswer f b 0 u) (Machine.advAll s) := by
  have hi' : s.initDone = true := by
    obtain ⟨-, -, -, hinit⟩ := same
    exact hinit.symm.trans hi
  rw [Machine.processUnit_unitData f u hi', same.bankValue_eq hrange, same.bankValue_eq hrange]
  rfl

/-- The block that an OK response leaves is a function of the block before. -/
theorem SameBlock.respond_advAll (st : Status) (d : CodeUnit) :
    SameBlock (Machine.advAll b) (Machine.respond st d (Machine.advAll s)) :=
  (same.advAll hrange).trans (.respond st d _)

end

/-- Settles O38: both commands see the bank values of the one block, and DEC's datapath undoes ENC's. -/
theorem decUndoesEnc : Obligations.DecUndoesEnc := by
  intro s s' u same hrange hi
  have henc := SameBlock.processUnit_unitData (.refl s) hrange hi encryptUnit u
  have hdec := same.processUnit_unitData hrange hi decryptUnit (unitAnswer encryptUnit s 0 u)
  rw [unitAnswer_decrypt_encrypt] at hdec
  refine ⟨unitAnswer encryptUnit s 0 u, _, _, congrArg Host.Outcome.next henc, ?_,
    congrArg Host.Outcome.next hdec, ?_, ?_⟩
  · rw [respond_outputs, advAll_outputs, responseWord_ok]
  · rw [respond_outputs, advAll_outputs, responseWord_ok]
  · exact (SameBlock.respond _ _ _).symm.trans (same.respond_advAll hrange _ _)

/-! ## The units of a stream and of its responses -/

/-- The DATA field that carries a unit carries that legal unit (30_encoding.md R57). -/
theorem legalUnit_unitData (u : CodeUnit) : legalUnit (unitData u) = some u := by
  revert u
  decide

/-- A DATA field above 31 carries no legal unit (30_encoding.md R57). -/
theorem legalUnit_of_large {data : DataField} (h : 31 < data.toNat) : legalUnit data = none :=
  if_neg (Nat.not_le.mpr h)

/-- The unit of an OK response is its RDATA (30_encoding.md R54). -/
theorem answeredUnit_ok (c : CodeUnit) : answeredUnit (responseWord .ok c) = some c := by
  revert c
  decide

/-- The response of an error carries no unit (30_encoding.md R54). -/
theorem answeredUnit_error (e : ErrorCode) : answeredUnit (responseWord (.error e) 0) = none := by
  cases e <;> rfl

/-! ## Streams of any DATA fields -/

/-- DEC's answers to ENC's answers, place by place, are the units of the stream. -/
theorem mapIdx_decrypt_encrypt (b : State) (us : List CodeUnit) :
    (us.mapIdx (unitAnswer encryptUnit b)).mapIdx (unitAnswer decryptUnit b) = us := by
  rw [List.mapIdx_mapIdx, List.mapIdx_eq_iff]
  intro i
  rw [show unitAnswer decryptUnit b i ∘ unitAnswer encryptUnit b i = id from
    funext (unitAnswer_decrypt_encrypt b i), Option.map_id_fun, id]

/-- The inputs `input` are the unit command with the datapath `f`. -/
def RunsUnits (input : DataField → HostInput) (f : CodeUnit → CodeUnit → CodeUnit → CodeUnit) : Prop :=
  ∀ (data : DataField) (s : State), acceptInput (input data) s = .next (processUnit f data (setKeyStable true s))

/-- The word of ENC runs the encrypting unit command. -/
theorem runsUnits_encInput : RunsUnits encInput encryptUnit := fun data _ =>
  (issueCommand_of_decode (decode_encWord data)).trans (exec_enc data _)

/-- The word of DEC runs the decrypting unit command. -/
theorem runsUnits_decInput : RunsUnits decInput decryptUnit := fun data _ =>
  (issueCommand_of_decode (decode_decWord data)).trans (exec_dec data _)

/-- What one DATA field of a stream, answered `r`, does to the block `b`: rejected, it leaves `b`; legal, it is answered
with the unit that `b` gives it, and advances. -/
inductive FieldAnswered (f : CodeUnit → CodeUnit → CodeUnit → CodeUnit) (b : State) (data : DataField)
    (r : ResponseWord) (t : State) : Prop where
  | rejected (legal : legalUnit data = none) (answer : answeredUnit r = none) (same : SameBlock b t)
  | answered (u : CodeUnit) (legal : legalUnit data = some u) (answer : answeredUnit r = some (unitAnswer f b 0 u))
      (same : SameBlock (advAll b) t)

section
variable {f : CodeUnit → CodeUnit → CodeUnit → CodeUnit} {input : DataField → HostInput} {b s : State}

/-- One DATA field of a stream, on any state whose block is the initialised block `b`. -/
theorem step_unitField (hruns : RunsUnits input f) (same : SameBlock b s) (hrange : WheelsInRange b)
    (hi : b.initDone = true) {data : DataField} {rest : List HostInput} (hin : s.inputs = input data :: rest) :
    ∃ (t : State) (r : ResponseWord), step s = .next t ∧ t.inputs = rest ∧ t.keyPort = s.keyPort ∧
      t.outputs = s.outputs ++ [HostOutput.response r] ∧ FieldAnswered f b data r t := by
  have hsame : SameBlock b (setKeyStable true (takeInput rest s)) := same
  have hstep : step s = .next (processUnit f data (setKeyStable true (takeInput rest s))) :=
    (step_cons hin).trans (hruns data _)
  rcases processUnit_cases f data (setKeyStable true (takeInput rest s)) with
    ⟨hclear, -⟩ | ⟨-, hlarge, hp⟩ | ⟨-, u, rfl, -⟩
  · obtain ⟨-, -, -, hinit⟩ := hsame
    exact absurd (hclear.symm.trans (hinit.symm.trans hi)) Bool.false_ne_true
  · rw [hp] at hstep
    exact ⟨_, _, hstep, rfl, rfl, raise_outputs _ _,
      .rejected (legalUnit_of_large hlarge) (answeredUnit_error _) hsame⟩
  · rw [hsame.processUnit_unitData hrange hi] at hstep
    exact ⟨_, _, hstep, rfl, rfl, respond_outputs _ _ _,
      .answered u (legalUnit_unitData u) (answeredUnit_ok _) (hsame.respond_advAll hrange _ _)⟩

/-- A stream of any DATA fields runs to its end, one response each; its OK responses are the answers of the block it
began with to its legal units, counted without the rejected ones (R126). -/
theorem run_unitFields (hruns : RunsUnits input f) (datas : List DataField) (same : SameBlock b s)
    (hrange : WheelsInRange b) (hi : b.initDone = true) (hin : s.inputs = datas.map input) :
    ∃ (t : State) (answers : List ResponseWord), core.run datas.length s = .next t ∧ t.keyPort = s.keyPort ∧
      t.outputs = s.outputs ++ answers.map HostOutput.response ∧ answers.length = datas.length ∧
      answers.filterMap answeredUnit = (datas.filterMap legalUnit).mapIdx (unitAnswer f b) := by
  induction datas generalizing b s with
  | nil => exact ⟨s, [], run_zero s, rfl, (List.append_nil _).symm, rfl, rfl⟩
  | cons data datas ih =>
    obtain ⟨s', r, hstep, hin', hport, hout, hfield⟩ := step_unitField hruns same hrange hi hin
    cases hfield with
    | rejected legal answer same' =>
      obtain ⟨t, answers, hrun, hport', houts, hlen, hunits⟩ := ih same' hrange hi hin'
      refine ⟨t, r :: answers, (run_succ hstep).trans hrun, hport'.trans hport, by simp [houts, hout],
        by simp [hlen], ?_⟩
      rw [List.filterMap_cons_none answer, List.filterMap_cons_none legal, hunits]
    | answered u legal answer same' =>
      obtain ⟨t, answers, hrun, hport', houts, hlen, hunits⟩ := ih same' hrange.advAll (by simp [hi]) hin'
      refine ⟨t, r :: answers, (run_succ hstep).trans hrun, hport'.trans hport, by simp [houts, hout],
        by simp [hlen], ?_⟩
      rw [List.filterMap_cons_some answer, List.filterMap_cons_some legal, List.mapIdx_cons, hunits]
      rfl

/-- The host's word 0x0000 with valid key material on K loads it (40_rotor_position_register.md R76). -/
theorem step_init {rest : List HostInput} (hk : validK s.keyPort = true) (hin : s.inputs = .command 0x0000 :: rest) :
    step s = .next (respond .ok 0 (loadKey s.keyPort (setKeyStable true (takeInput rest s)))) :=
  (step_command hin (i := .init) rfl).trans (execInit_of_valid rfl hk)

/-- A pass: INIT with valid key material `k` on K, then a stream. Its OK responses are a function of `k` and the legal
units; nothing that the block held before (here `s₀`, any state) enters (R126). -/
theorem run_pass (hruns : RunsUnits input f) (datas : List DataField) (s₀ : State) {k : KeyMaterial}
    (hk : validK k = true) (hport : s.keyPort = k) (hin : s.inputs = .command 0x0000 :: datas.map input) :
    ∃ (t : State) (answers : List ResponseWord), core.run (datas.length + 1) s = .next t ∧ t.keyPort = k ∧
      t.outputs = s.outputs ++ .response 0 :: answers.map HostOutput.response ∧ answers.length = datas.length ∧
      answers.filterMap answeredUnit = (datas.filterMap legalUnit).mapIdx (unitAnswer f (loadKey k s₀)) := by
  subst hport
  have hready : EngineReady (loadKey s.keyPort s₀) := ⟨rfl, .loadKey hk s₀⟩
  have same : SameBlock (loadKey s.keyPort s₀)
      (respond .ok 0 (loadKey s.keyPort (setKeyStable true (takeInput (datas.map input) s)))) := ⟨rfl, rfl, rfl, rfl⟩
  obtain ⟨t, answers, hrun, hport, houts, hlen, hunits⟩ :=
    run_unitFields hruns datas same (.of_engineReady hready) rfl rfl
  refine ⟨t, answers, (run_succ (step_init hk hin)).trans hrun, hport, ?_, hlen, hunits⟩
  simp [houts, responseWord_ok]

end

/-- Settles O41: the second pass begins with the block of the first, so DEC's answers undo ENC's place by place. -/
theorem streamRoundTrip : Obligations.StreamRoundTrip := by
  intro s k plain hk
  have hdrive : step { s with inputs := .driveKey k :: .command 0x0000 :: plain.map encInput } =
      .next (driveKeyPort k (takeInput (.command 0x0000 :: plain.map encInput) s)) := rfl
  obtain ⟨t, answers, hrun, hport, houts, hlen, hunits⟩ := run_pass runsUnits_encInput plain s hk
    (s := driveKeyPort k (takeInput (.command 0x0000 :: plain.map encInput) s)) rfl rfl
  refine ⟨t, answers, (run_succ hdrive).trans hrun, houts, hlen, fun cipher hcipher => ?_⟩
  obtain ⟨t', answers', hrun', -, houts', -, hunits'⟩ := run_pass runsUnits_decInput cipher s hk
    (s := { t with inputs := .command 0x0000 :: cipher.map decInput }) hport rfl
  refine ⟨t', answers', hrun', houts', ?_⟩
  calc answers'.filterMap answeredUnit
      = ((plain.filterMap legalUnit).mapIdx (unitAnswer encryptUnit (loadKey k s))).mapIdx
          (unitAnswer decryptUnit (loadKey k s)) := by rw [hunits', hcipher, hunits]
    _ = plain.filterMap legalUnit := mapIdx_decrypt_encrypt (loadKey k s) _

end Sys2Proof.Machine
end

-- Proofs of the statements of 60_exceptions.md.
section
/-! PROOF. The errors: their causes, their order, that they leave no trace; what stops the machine; several blocks. -/

namespace Sys2Proof.Machine

/-! ## The causes of ILLEGAL_COMMAND -/

/-- The decoder by the three fields, with the causes of ILLEGAL_COMMAND first (60_exceptions.md R141, R146). -/
theorem decode_eq_of_fields (cw : CommandWord) :
    decode cw =
      if rsvField cw ≠ 0 then .illegal .reservedBits
      else if opField cw = 3 then .illegal .reservedOp
      else if opField cw = 0 then (if dataField cw ≠ 0 then .illegal .initData else .instr .init)
      else if opField cw = 1 then .instr (.enc (dataField cw))
      else .instr (.dec (dataField cw)) := by
  unfold decode
  have hop : opField cw = 0 ∨ opField cw = 1 ∨ opField cw = 2 ∨ opField cw = 3 := by
    generalize opField cw = op
    revert op
    decide
  rcases hop with h | h | h | h <;> simp [h, ite_not]

/-- A word with one of the three causes is illegal (60_exceptions.md R141). -/
theorem exists_illegal_of_cause {cw : CommandWord}
    (h : rsvField cw ≠ 0 ∨ opField cw = 3 ∨ (opField cw = 0 ∧ dataField cw ≠ 0)) :
    ∃ why, decode cw = .illegal why := by
  rw [decode_eq_of_fields]
  by_cases hrsv : rsvField cw ≠ 0
  · exact ⟨.reservedBits, if_pos hrsv⟩
  · rw [if_neg hrsv]
    rcases h.resolve_left hrsv with hop | ⟨hop, hdata⟩
    · exact ⟨.reservedOp, if_pos hop⟩
    · exact ⟨.initData, (if_neg (by simp [hop])).trans ((if_pos hop).trans (if_pos hdata))⟩

/-- Settles O9: a word with one of the causes is illegal, and its step is `step_illegal`. -/
theorem illegalWordsRaiseIllegalCommand : Obligations.IllegalWordsRaiseIllegalCommand := by
  intro s cw rest hin hcause
  obtain ⟨why, hd⟩ := exists_illegal_of_cause hcause
  exact step_illegal hin hd

/-! ## The status of a command -/

/-- The status of ENC and DEC, in the order of 60_exceptions.md R146. -/
def unitStatus (s : State) (data : DataField) : Status :=
  if s.initDone = false then .error .notInitialised
  else if 31 < data.toNat then .error .domainError
  else .ok

/-- The status of a decoded word with K held stable (60_exceptions.md R141 to R144). -/
def commandStatus (s : State) : Decoded → Status
  | .illegal _ => .error .illegalCommand
  | .instr .init => if validK s.keyPort then .ok else .error .configError
  | .instr (.enc data) => unitStatus s data
  | .instr (.dec data) => unitStatus s data

/-- A unit command is answered with its status. -/
theorem processUnit_status (f : CodeUnit → CodeUnit → CodeUnit → CodeUnit) (data : DataField) (s : State) :
    ∃ d, (processUnit f data s).outputs = s.outputs ++ [.response (responseWord (unitStatus s data) d)] := by
  rcases processUnit_cases f data s with ⟨hi, hp⟩ | ⟨hi, hd, hp⟩ | ⟨hi, u, rfl, hp⟩
  · exact ⟨0, by simp [hp, unitStatus, hi]⟩
  · exact ⟨0, by simp [hp, unitStatus, hi, hd]⟩
  · have hlegal : ¬31 < (unitData u).toNat := by
      rw [← unitOperand_eq_none, unitOperand_eq_some.mpr rfl]
      simp
    exact ⟨f u (bankValue .x s) (bankValue .s s), by simp [hp, unitStatus, hi, hlegal]⟩

/-- INIT with K held stable is answered with its status. -/
theorem execInit_status {s : State} (hs : s.keyStable = true) :
    ∃ t d, execInit s = .next t ∧
      t.outputs = s.outputs ++ [.response (responseWord (commandStatus s (.instr .init)) d)] := by
  by_cases hk : validK s.keyPort = true
  · exact ⟨_, 0, execInit_of_valid hs hk, by simp [commandStatus, hk]⟩
  · exact ⟨_, 0, execInit_of_invalid hs hk, by simp [commandStatus, hk]⟩

/-- A word issued with K held stable is answered once, with the status of what it decodes to. -/
theorem issueCommand_status (cw : CommandWord) {s : State} (hs : s.keyStable = true) :
    ∃ t d, issueCommand cw s = .next t ∧
      t.outputs = s.outputs ++ [.response (responseWord (commandStatus s (decode cw)) d)] := by
  unfold issueCommand
  cases decode cw with
  | illegal why => exact ⟨_, 0, rfl, raise_outputs .illegalCommand s⟩
  | instr i =>
    cases i with
    | init => exact execInit_status hs
    | enc data =>
      obtain ⟨d, hd⟩ := processUnit_status encryptUnit data s
      exact ⟨_, d, exec_enc data s, hd⟩
    | dec data =>
      obtain ⟨d, hd⟩ := processUnit_status decryptUnit data s
      exact ⟨_, d, exec_dec data s, hd⟩

/-- The STATUS code of a word is that of its first cause in the order of 60_exceptions.md R146. -/
theorem commandStatus_decode_code (s : State) (cw : CommandWord) :
    (commandStatus s (decode cw)).code =
      if rsvField cw ≠ 0 then 0b011
      else if opField cw = 3 then 0b011
      else if opField cw = 0 then
        (if dataField cw ≠ 0 then 0b011 else if validK s.keyPort then 0b000 else 0b010)
      else if s.initDone = false then 0b100
      else if 31 < (dataField cw).toNat then 0b001
      else 0b000 := by
  have hunit : (unitStatus s (dataField cw)).code =
      if s.initDone = false then 0b100 else if 31 < (dataField cw).toNat then 0b001 else 0b000 := by
    simp only [unitStatus, apply_ite Status.code]
    rfl
  rw [decode_eq_of_fields]
  simp only [apply_ite (commandStatus s)]
  simp only [commandStatus, ite_self, apply_ite Status.code, hunit]
  rfl

/-- Settles O7: the response of `issueCommand_status`, whose STATUS is that of `commandStatus_decode_code`. -/
theorem statusFollowsPriority : Obligations.StatusFollowsPriority := by
  intro s cw rest hin
  obtain ⟨t, d, hissue, hout⟩ := issueCommand_status cw (s := setKeyStable true (takeInput rest s)) rfl
  have hstep : step s = .next t := (step_cons hin).trans hissue
  refine ⟨t, _, hstep, (step_inputs hstep).trans (by rw [hin, List.tail_cons]), hout, ?_⟩
  rw [responseWord_status]
  exact commandStatus_decode_code s cw

/-! ## The errors of the single commands -/

/-- Settles O10: the first check of ENC and of DEC. -/
theorem unitBeforeInitIsNotInitialised : Obligations.UnitBeforeInitIsNotInitialised := by
  intro s data hi
  obtain ⟨henc, -, -⟩ := encEncryptsOneUnit s data
  obtain ⟨hdec, -, -⟩ := decDecryptsOneUnit s data
  exact ⟨henc hi, hdec hi⟩

/-- Settles O11: the second check of ENC and of DEC. -/
theorem largeUnitIsDomainError : Obligations.LargeUnitIsDomainError := by
  intro s data hi hd
  obtain ⟨-, henc, -⟩ := encEncryptsOneUnit s data
  obtain ⟨-, hdec, -⟩ := decDecryptsOneUnit s data
  exact ⟨henc hi hd, hdec hi hd⟩

/-- Valid key material has none of the three faults of 60_exceptions.md R144. -/
theorem not_validK_of_fault {k : KeyMaterial}
    (h : (∃ w, k.lengths.get w ∉ Config.lset) ∨ (∃ v w, v ≠ w ∧ k.lengths.get v = k.lengths.get w) ∨
      ∃ w, (k.lengths.get w).toNat ≤ (k.indicators.get w).toNat) :
    validK k ≠ true := by
  intro hk
  obtain ⟨hperm, hindicators⟩ := validK_eq_true.mp hk
  obtain ⟨hmem, hdistinct⟩ := lengths_perm_lset_iff.mp hperm
  rcases h with ⟨w, hw⟩ | ⟨v, w, hne, heq⟩ | ⟨w, hw⟩
  · exact hw (hmem w)
  · exact hne (hdistinct v w heq)
  · exact Nat.not_lt.mpr hw (hindicators w)

/-- Settles O12: key material with a fault is not valid, and INIT then raises CONFIG_ERROR. -/
theorem badKeyIsConfigError : Obligations.BadKeyIsConfigError :=
  fun _ hs hfault => execInit_of_invalid hs (not_validK_of_fault hfault)

/-! ## An error writes nothing -/

/-- A pending command word is no RST. -/
theorem CommandPending.not_resetPending {s : State} {cw : CommandWord} (h : CommandPending s cw) :
    ¬ResetPending s := by
  rintro ⟨rest', hreset⟩
  obtain ⟨rest, hin | ⟨k, hin⟩⟩ := h <;> simp [hin] at hreset

/-- A step on a command word that is answered with an error leaves the block as it was (60_exceptions.md R145): the steps
that load or advance are answered OK. -/
theorem step_sameBlock_of_error {s t : State} {cw : CommandWord} {rw : ResponseWord} (hpending : CommandPending s cw)
    (h : step s = .next t) (hout : t.outputs = s.outputs ++ [.response rw]) (herr : rw.extractLsb' 5 3 ≠ 0) :
    SameBlock s t := by
  have hanswer : ∀ c : CodeUnit, t.outputs ≠ s.outputs ++ [.response (responseWord .ok c)] := by
    intro c hok
    rw [hout] at hok
    have hrw : rw = responseWord .ok c := by simpa using hok
    exact herr (hrw ▸ responseWord_ok_status c)
  cases step_blockStep h with
  | held same => exact same
  | reset pending cleared => exact absurd pending hpending.not_resetPending
  | loaded k pending valid answer same => exact absurd answer (hanswer 0)
  | advanced cw' c u pending ready answer start same => exact absurd answer (hanswer c)

/-- Settles O13, by `step_sameBlock_of_error`. -/
theorem errorsChangeNothing : Obligations.ErrorsChangeNothing :=
  fun _ _ _ _ rest _ hin h hout herr =>
    step_sameBlock_of_error ⟨rest, hin.imp_right fun hk => ⟨_, hk⟩⟩ h hout herr

/-! ## What a command does is a function of the block and of K -/

/-- From `s` and from `s'` the same response is given, and blocks are left that agree. -/
def AnsweredAlike (s s' : State) (o o' : Host.Outcome State Fault Refusal) : Prop :=
  ∃ t t' rw, o = .next t ∧ o' = .next t' ∧ t.outputs = s.outputs ++ [.response rw] ∧
    t'.outputs = s'.outputs ++ [.response rw] ∧ SameBlock t t'

section
variable {s s' : State}

/-- The same response from blocks that agree. -/
theorem AnsweredAlike.respond {u u' : State} (same : SameBlock u u') (hout : u.outputs = s.outputs)
    (hout' : u'.outputs = s'.outputs) (st : Status) (d : CodeUnit) :
    AnsweredAlike s s' (.next (respond st d u)) (.next (respond st d u')) := by
  refine ⟨_, _, responseWord st d, rfl, rfl, ?_, ?_, same⟩
  · rw [respond_outputs, hout]
  · rw [respond_outputs, hout']

/-- The same error from blocks that agree. -/
theorem AnsweredAlike.raise (same : SameBlock s s') (e : ErrorCode) :
    AnsweredAlike s s' (.next (raise e s)) (.next (raise e s')) :=
  .respond same rfl rfl (.error e) 0

/-- ENC and DEC do the same on blocks that agree, with a good key store. -/
theorem processUnit_answeredAlike (same : SameBlock s s') (hgood : KeyStoreGood s)
    (f : CodeUnit → CodeUnit → CodeUnit → CodeUnit) (data : DataField) :
    AnsweredAlike s s' (.next (processUnit f data s)) (.next (processUnit f data s')) := by
  have hinit : s.initDone = s'.initDone := by
    obtain ⟨-, -, -, hinit⟩ := same
    exact hinit
  rcases processUnit_cases f data s with ⟨hi, hp⟩ | ⟨hi, hd, hp⟩ | ⟨hi, u, rfl, -⟩
  · rw [hp, processUnit_of_not_initDone f data (hinit ▸ hi)]
    exact .raise same _
  · rw [hp, processUnit_of_large f (hinit ▸ hi) hd]
    exact .raise same _
  · have hrange : WheelsInRange s := .of_engineReady ⟨hi, hgood⟩
    rw [SameBlock.processUnit_unitData (.refl s) hrange hi, same.processUnit_unitData hrange hi]
    exact .respond (same.advAll hrange) rfl rfl _ _

/-- INIT does the same with the same K held stable. -/
theorem execInit_answeredAlike (same : SameBlock s s') (hport : s.keyPort = s'.keyPort) (hs : s.keyStable = true)
    (hs' : s'.keyStable = true) : AnsweredAlike s s' (execInit s) (execInit s') := by
  by_cases hk : validK s.keyPort = true
  · have hload : SameBlock (loadKey s.keyPort s) (loadKey s.keyPort s') := ⟨rfl, rfl, rfl, rfl⟩
    rw [execInit_of_valid hs hk, execInit_of_valid hs' (hport ▸ hk), ← hport]
    exact .respond hload rfl rfl _ _
  · rw [execInit_of_invalid hs hk, execInit_of_invalid hs' (hport ▸ hk)]
    exact .raise same _

/-- A command word does the same on blocks that agree, with a good key store and the same K held stable. -/
theorem issueCommand_answeredAlike (cw : CommandWord) (same : SameBlock s s') (hport : s.keyPort = s'.keyPort)
    (hs : s.keyStable = true) (hs' : s'.keyStable = true) (hgood : KeyStoreGood s) :
    AnsweredAlike s s' (issueCommand cw s) (issueCommand cw s') := by
  unfold issueCommand
  cases decode cw with
  | illegal why => exact .raise same _
  | instr i =>
    cases i with
    | init => exact execInit_answeredAlike same hport hs hs'
    | enc data => exact processUnit_answeredAlike same hgood encryptUnit data
    | dec data => exact processUnit_answeredAlike same hgood decryptUnit data

/-- A step on a command word does the same on blocks that agree, whatever inputs stand behind the word. -/
theorem step_answeredAlike {cw : CommandWord} {rest rest' : List HostInput} (hin : s.inputs = .command cw :: rest)
    (hin' : s'.inputs = .command cw :: rest') (same : SameBlock s s') (hport : s.keyPort = s'.keyPort)
    (hgood : KeyStoreGood s) : AnsweredAlike s s' (step s) (step s') := by
  rw [step_cons hin, step_cons hin']
  exact issueCommand_answeredAlike (s := setKeyStable true (takeInput rest s))
    (s' := setKeyStable true (takeInput rest' s')) cw same hport rfl rfl hgood

end

/-- A command word leaves K as it is. -/
theorem issueCommand_keyPort {cw : CommandWord} {s t : State} (h : issueCommand cw s = .next t) :
    t.keyPort = s.keyPort := by
  rcases issueCommand_next_cases h with ⟨e, rfl⟩ | ⟨-, ⟨-, -, rfl⟩ | ⟨-, rfl⟩⟩ | ⟨-, -, c, rfl⟩ <;> simp

/-- A step on a command word issued with K held stable leaves K as it is. -/
theorem step_command_keyPort {s t : State} {cw : CommandWord} {rest : List HostInput}
    (hin : s.inputs = .command cw :: rest) (h : step s = .next t) : t.keyPort = s.keyPort := by
  rw [step_cons hin] at h
  exact issueCommand_keyPort (s := setKeyStable true (takeInput rest s)) h

/-- Settles O14: the failed command leaves the block and K, and the next one is a function of these. -/
theorem errorsAreNotSticky : Obligations.ErrorsAreNotSticky := by
  intro s b bad cw e hgood hb hout herr
  obtain ⟨b', f, e', hb', hf, hout', hfout, -⟩ :=
    step_answeredAlike (s := { s with inputs := [.command bad] })
      (s' := { s with inputs := [.command bad, .command cw] }) rfl rfl (.refl s) rfl hgood
  obtain rfl : b = b' := Host.Outcome.next.inj (hb.symm.trans hb')
  obtain rfl : e = e' := by simpa using hout.symm.trans hout'
  have hsame : SameBlock s f :=
    step_sameBlock_of_error (s := { s with inputs := [.command bad, .command cw] }) ⟨_, .inl rfl⟩ hf hfout herr
  have hport : s.keyPort = f.keyPort := (step_command_keyPort rfl hf).symm
  obtain ⟨u, t, rw, hu, ht, huout, htout, hend⟩ :=
    step_answeredAlike (s := { s with inputs := [.command cw] }) rfl (step_inputs hf) hsame hport hgood
  refine ⟨t, u, rw, (run_succ hf).trans ((run_succ ht).trans (run_zero t)), hu, ?_, huout, hend.symm⟩
  rw [htout, hfout, List.append_assoc]
  rfl

/-! ## What stops the machine -/

/-- An output carries no value exactly when INIT_DONE = 0 and the output is not OBS_INIT_DONE (10_state.md R31). -/
theorem observed_eq_none_iff {port : ObsPort} {s : State} :
    observed port s = none ↔ port ≠ .initDone ∧ s.initDone = false := by
  refine ⟨fun h => ?_, fun ⟨hport, hi⟩ => observed_eq_none hi hport⟩
  cases port with
  | initDone => cases h
  | _ => simpa [observed] using h

/-- An input is accepted, or it is the read of an output that carries no value. -/
theorem acceptInput_answers_or_fault (input : HostInput) (s : State) :
    (∃ t, acceptInput input s = .next t) ∨
    ∃ port, input = .observe port ∧ observed port s = none ∧ acceptInput input s = .fault (.obsNoValue port) := by
  cases input with
  | command cw => exact .inl (issueCommand_answers cw _)
  | commandKeyChanging cw k =>
    obtain ⟨t, ht⟩ := issueCommand_answers cw (setKeyStable false s)
    exact .inl ⟨_, issueWhileKeyChanges_eq ht⟩
  | commandAborted cw => exact .inl ⟨_, rfl⟩
  | reset => exact .inl ⟨_, rfl⟩
  | driveKey k => exact .inl ⟨_, rfl⟩
  | observe port =>
    rcases readObservation_cases port s with ⟨v, -, hread⟩ | ⟨hnone, hread⟩
    · exact .inl ⟨_, hread⟩
    · exact .inr ⟨port, rfl, hnone, hread⟩

/-- Settles O47: with no input pending, a step is its own first branch. -/
theorem idleBlockHoldsState : Obligations.IdleBlockHoldsState := by
  intro s hin
  simp only [step, serve, hin]

/-- Settles O50: an idle block answers, and so does every input but a read without a value. -/
theorem onlyValuelessReadsStop : Obligations.OnlyValuelessReadsStop := by
  intro s
  cases hin : s.inputs with
  | nil => exact .inl ⟨s, idleBlockHoldsState s hin⟩
  | cons input rest =>
    rw [step_cons hin]
    refine (acceptInput_answers_or_fault input (takeInput rest s)).imp_right ?_
    rintro ⟨port, rfl, hnone, hfault⟩
    obtain ⟨hport, hi⟩ := observed_eq_none_iff.mp hnone
    exact ⟨port, rest, rfl, hport, hi, hfault⟩

/-! ## Several blocks -/

/-- What a step of block `k` can do when it answers: nothing where there is no such block, else that block's own step. -/
theorem stepBlock_next_cases {k : Nat} {blocks after : List State} (h : stepBlock k blocks = .next after) :
    (blocks[k]? = none ∧ after = blocks) ∨
    ∃ s t, blocks[k]? = some s ∧ step s = .next t ∧ after = blocks.set k t := by
  unfold stepBlock at h
  cases hk : blocks[k]? with
  | none =>
    simp only [hk] at h
    cases h
    exact .inl ⟨rfl, rfl⟩
  | some s =>
    simp only [hk] at h
    cases hs : step s with
    | next t =>
      simp only [hs] at h
      cases h
      exact .inr ⟨s, t, rfl, hs, rfl⟩
    | fault f => simp [hs] at h
    | refused r => simp [hs] at h

/-- Settles O52: setting member `k` of a list leaves its length and every other member. -/
theorem blocksShareNothing : Obligations.BlocksShareNothing := by
  intro k blocks after h
  rcases stepBlock_next_cases h with ⟨hnone, rfl⟩ | ⟨s, t, hsome, hs, rfl⟩
  · exact ⟨rfl, fun _ _ => rfl, fun s hsome => absurd (hnone.symm.trans hsome) (by simp)⟩
  · refine ⟨List.length_set, fun j hj => List.getElem?_set_ne (Ne.symm hj), fun s' hsome' => ?_⟩
    obtain rfl : s = s' := Option.some.inj (hsome.symm.trans hsome')
    obtain ⟨hlt, -⟩ := List.getElem?_eq_some_iff.mp hsome
    exact ⟨t, hs, List.getElem?_set_self hlt⟩

end Sys2Proof.Machine
end

-- Proofs of the statements of 70_reset_and_hazards.md.
section
/-! PROOF. K changing during a command, RST, and the commands after reset. -/

namespace Sys2Proof.Machine

/-! ## Only INIT looks at K -/

/-- A unit command does not look at whether K is held stable, and leaves it (20_memory.md R45). -/
theorem processUnit_setKeyStable (f : CodeUnit → CodeUnit → CodeUnit → CodeUnit) (data : DataField) (stable : Bool)
    (s : State) : processUnit f data (setKeyStable stable s) = setKeyStable stable (processUnit f data s) := by
  rcases processUnit_cases f data s with ⟨hi, hp⟩ | ⟨hi, hd, hp⟩ | ⟨hi, u, rfl, hp⟩ <;> rw [hp]
  · exact processUnit_of_not_initDone f data hi
  · exact processUnit_of_large f hi hd
  · exact processUnit_unitData f u (s := setKeyStable stable s) hi

/-- A word other than INIT's answers alike with K held stable and with K changing (70_reset_and_hazards.md R165). -/
theorem issueCommand_setKeyStable {cw : CommandWord} (hcw : cw ≠ 0) (s : State) :
    ∃ t, ∀ stable, issueCommand cw (setKeyStable stable s) = .next (setKeyStable stable t) := by
  cases hd : decode cw with
  | illegal why => exact ⟨raise .illegalCommand s, fun stable => by simp only [issueCommand, hd]; rfl⟩
  | instr i =>
    simp only [issueCommand_of_decode hd]
    cases i with
    | init => exact absurd (eq_zero_of_decode_init hd) hcw
    | enc data =>
      exact ⟨processUnit encryptUnit data s, fun stable => by rw [exec_enc, processUnit_setKeyStable]⟩
    | dec data =>
      exact ⟨processUnit decryptUnit data s, fun stable => by rw [exec_dec, processUnit_setKeyStable]⟩

/-- Settles O17: of the four answers of INIT, the two with K not stable. -/
theorem initWithChangingKey : Obligations.InitWithChangingKey := by
  intro s hs
  rcases execInit_cases s with ⟨hs', -, -⟩ | ⟨hs', -, -⟩ | ⟨-, he⟩ | ⟨-, he⟩
  · exact absurd (hs.symm.trans hs') Bool.false_ne_true
  · exact absurd (hs.symm.trans hs') Bool.false_ne_true
  · exact ⟨_, he, rfl, rfl, rfl, .inl ⟨rfl, rfl⟩⟩
  · exact ⟨_, he, rfl, rfl, rfl, .inr ⟨.respond (.error .configError) 0 s, rfl⟩⟩

/-- Settles O19: a word other than INIT's answers the same state but for `keyStable`, which the new value on K sets. The
good key store is not needed: the free values do not look at K. -/
theorem keyChangeOutsideInitIsHarmless : Obligations.KeyChangeOutsideInitIsHarmless := by
  refine ⟨fun s cw k rest _ hcw => ?_, fun s k rest => rfl⟩
  obtain ⟨t, ht⟩ := issueCommand_setKeyStable hcw (takeInput rest s)
  have hchanging : issueWhileKeyChanges cw k (takeInput rest s) = .next (driveKeyPort k (setKeyStable false t)) :=
    issueWhileKeyChanges_eq (ht false)
  exact ⟨setKeyStable true t, ht true, hchanging⟩

/-! ## RST -/

/-- A step on RST, alone or during a command, asserts it (70_reset_and_hazards.md R160). -/
theorem step_reset {s : State} {cw : CommandWord} {rest : List HostInput}
    (hin : s.inputs = .reset :: rest ∨ s.inputs = .commandAborted cw :: rest) :
    step s = .next (assertReset (takeInput rest s)) :=
  hin.elim step_cons step_cons

/-- Settles O46: `step_reset`; ENC and DEC then see INIT_DONE = 0. -/
theorem rstClearsInitDone : Obligations.RstClearsInitDone :=
  fun _ _ _ hin => ⟨_, step_reset hin, rfl, rfl, rfl, rfl, fun data => unitBeforeInitIsNotInitialised _ data rfl⟩

/-! ## The commands after reset -/

/-- A whole command word, placed as the next input, is that word (30_encoding.md R53). -/
theorem withFetchWord_toNat_inputs (s : State) (cw : CommandWord) :
    (s.withFetchWord 16 cw.toNat).inputs = .command cw :: s.inputs := by
  rw [withFetchWord_inputs, Nat.mod_eq_of_lt cw.isLt, BitVec.ofNat_toNat, BitVec.setWidth_eq]

/-- A word of ENC or DEC, before any INIT has succeeded, raises NOT_INITIALISED (60_exceptions.md R142). -/
theorem step_unitWord_of_not_initDone {s : State} {cw : CommandWord} {rest : List HostInput}
    (hcw : cw.extractLsb' 8 8 = 0x40 ∨ cw.extractLsb' 8 8 = 0x80) (hi : s.initDone = false)
    (hin : s.inputs = .command cw :: rest) :
    step s = .next (raise .notInitialised (setKeyStable true (takeInput rest s))) := by
  obtain ⟨-, henc, hdec, -⟩ := decoderClassifiesEveryWord cw
  obtain ⟨hexecEnc, hexecDec⟩ :=
    unitBeforeInitIsNotInitialised (setKeyStable true (takeInput rest s)) (cw.extractLsb' 0 8) hi
  rcases hcw with hop | hop
  · exact (step_command hin ((henc _).mpr ⟨hop, rfl⟩)).trans hexecEnc
  · exact (step_command hin ((hdec _).mpr ⟨hop, rfl⟩)).trans hexecDec

/-- The host's word 0x0000 with invalid key material on K raises CONFIG_ERROR (60_exceptions.md R144). -/
theorem step_init_of_invalid {s : State} {rest : List HostInput} (hk : validK s.keyPort ≠ true)
    (hin : s.inputs = .command 0x0000 :: rest) :
    step s = .next (raise .configError (setKeyStable true (takeInput rest s))) :=
  (step_command hin (i := .init) rfl).trans (execInit_of_invalid rfl hk)

/-- Settles O45: one step for a word of ENC or DEC and for an illegal word; for INIT a second one, on the K just
driven. -/
theorem resetAcceptsCommands : Obligations.ResetAcceptsCommands := by
  refine ⟨rfl, fun cw hcw => ?_, fun cw why hd => ?_, fun k => ?_⟩
  · exact ⟨_, step_unitWord_of_not_initDone hcw rfl (withFetchWord_toNat_inputs _ cw), rfl, rfl⟩
  · exact ⟨_, step_illegal (withFetchWord_toNat_inputs _ cw) hd, rfl, rfl⟩
  · have hdrive : step { State.reset with inputs := [.driveKey k, .command 0x0000] } =
        .next (driveKeyPort k (takeInput [.command 0x0000] State.reset)) := rfl
    by_cases hk : validK k = true
    · have hinit := step_init (s := driveKeyPort k (takeInput [.command 0x0000] State.reset)) hk rfl
      refine ⟨_, (run_succ hdrive).trans (run_succ hinit), hk.symm, fun _ => ⟨rfl, rfl, rfl, rfl⟩, fun hbad => ?_⟩
      exact absurd (hbad.symm.trans hk) Bool.false_ne_true
    · have hinit := step_init_of_invalid (s := driveKeyPort k (takeInput [.command 0x0000] State.reset)) hk rfl
      exact ⟨_, (run_succ hdrive).trans (run_succ hinit), (Bool.eq_false_of_not_eq_true hk).symm,
        fun hgood => absurd hgood hk, fun _ => rfl⟩

end Sys2Proof.Machine
end

-- Proofs of the statements of 95_test_vectors.md.
section
/-! PROOF. The sample words: the words of five commands, and illegal words of the three causes. -/

namespace Sys2Proof.Machine

/-- Settles O4: a legal word is the one the encoder writes for its command; an illegal word lies in the set of its cause,
0x0001 to 0x00FF, 0xC000 to 0xC0FF, or RSV not 0 (30_encoding.md R59). -/
theorem sampleWordsDecode : Obligations.SampleWordsDecode := by
  refine ⟨decode_encode .init, decode_encode (.enc 31), decode_encode (.enc 32), decode_encode (.dec 5),
    decode_encode (.dec 160), decode_eq_iff.mpr ?initData, decode_eq_iff.mpr ?reservedOp,
    decode_eq_iff.mpr ?reservedBitsOfEnc, decode_eq_iff.mpr ?reservedBitsOfDec⟩
  case initData => constructor <;> decide
  case reservedOp => constructor <;> decide
  case reservedBitsOfEnc =>
    change rsvField 0x4105 ≠ 0
    decide
  case reservedBitsOfDec =>
    change rsvField 0xBF00 ≠ 0
    decide

end Sys2Proof.Machine
end
